-- ==== Sys2Proof/Word.lean ====
section
/-! DEFINITION. The machine word and the other plain bit-vector types of the ARM710a (rules R8, R10, R12). -/

namespace Sys2Proof

/-- A 32-bit register value, bus word, address or instruction word (rule R8). -/
abbrev Word := BitVec 32

/-- A byte, the smallest quantity a load or a store moves (rule R80). -/
abbrev Byte := BitVec 8

/-- A register number field of an instruction: 0 to 15, where 15 names the PC (rules R20, R25). -/
abbrev RegNo := BitVec 4

end Sys2Proof
end

