-- ==== Sys2Proof/Config.lean ====
section
/-! DEFINITION. What the spec leaves open as a parameter or as "any value" (rule R9, file 93): constants with no
body, so that no proof can see what they are. -/

namespace Sys2Proof.Config

/-- `ID_REVISION`, bits [3:0] of the ID register, which the source does not fix (rules R51, R9; D14). -/
opaque idRevision : BitVec 4

/-- The free values `ANY32`, `ANY1` of rule R13: the n-th free value a run draws.  `MemSys.free` counts the draws, so
two draws are not necessarily equal.  Unconstrained: nothing may be proved about a particular value. -/
opaque freeWord : Nat → Word

/-- The free value read from a banked register straight after a User-bank LDM (rule R512, U24): the draw number and the
register number select it. -/
opaque freeBanked : Nat → RegNo → Word

/-- The cache index function, which the source does not give (rule R160, N15): from the virtual line number `va[31:4]` to
one of the 128 lines of a bank. -/
opaque cacheIndex : BitVec 28 → BitVec 7

end Sys2Proof.Config
end

