-- ==== Sys2Proof/Syntax.lean ====
section
/-! DEFINITION. The instructions of the ARM710a as syntax: one constructor for each row of `spec/opcode_table.json`,
holding every bit the row's encoding leaves free (file 30, rules R180 to R196). -/

namespace Sys2Proof

/-- The condition field, bits [31:28] (rule R230). -/
inductive Cond where
  | eq | ne | cs | cc | mi | pl | vs | vc | hi | ls | ge | lt | gt | le | al | nv
  deriving DecidableEq, Repr

/-- The encoding of a condition (rule R230). -/
def Cond.bits : Cond → BitVec 4
  | .eq => 0 | .ne => 1 | .cs => 2 | .cc => 3 | .mi => 4 | .pl => 5 | .vs => 6 | .vc => 7
  | .hi => 8 | .ls => 9 | .ge => 10 | .lt => 11 | .gt => 12 | .le => 13 | .al => 14 | .nv => 15

/-- The shift type field, bits [6:5] (rules R185, R241). -/
inductive ShiftType where
  | lsl | lsr | asr | ror
  deriving DecidableEq, Repr

/-- The encoding of a shift type (rule R185). -/
def ShiftType.bits : ShiftType → BitVec 2
  | .lsl => 0 | .lsr => 1 | .asr => 2 | .ror => 3

/-- Which PSR an MRS or MSR names: the CPSR (bit 22 clear) or the SPSR of the current mode (bit 22 set) (rule R186). -/
inductive PsrSel where
  | cpsr | spsr
  deriving DecidableEq, Repr

/-- The encoding of the PSR selector (rule R186). -/
def PsrSel.bit : PsrSel → BitVec 1
  | .cpsr => 0 | .spsr => 1

/-- Why a word is not an instruction (rule R201): the two sets of codes that "are not defined but do not cause the
Undefined instruction trap to be taken". -/
inductive DecodeReject where
  /-- Bits [27:25] = 000, bits 7 and 4 set, and not MUL, MLA, SWP or SWPB (rule R201 (a), U3). -/
  | multiplySpace
  /-- A TST, TEQ, CMP or CMN opcode with S = 0 that is no MRS or MSR pattern (rule R201 (b), U4). -/
  | psrTransferSpace
  deriving DecidableEq, Repr

/-- An instruction word, taken apart.  Each constructor is one row of the opcode table; the fields are the row's free
bits, ignored ones included (rule R201 (e)).  `c` is the condition, `s` the S bit, `up` the U bit, `pre` the P bit, `w` the
W bit, `off` the offset field as encoded. -/
inductive Instr where
  /-- AND with a rotated immediate (R260, R183, R247). -/
  | andImm (c : Cond) (s : Bool) (rn rd : RegNo) (rot : BitVec 4) (imm : BitVec 8)
  /-- AND with Rm shifted by an amount in the instruction (R260, R185). -/
  | andShImm (c : Cond) (s : Bool) (rn rd : RegNo) (amt : BitVec 5) (ty : ShiftType) (rm : RegNo)
  /-- AND with Rm shifted by the bottom byte of Rs (R260, R185, R248). -/
  | andShReg (c : Cond) (s : Bool) (rn rd rs : RegNo) (ty : ShiftType) (rm : RegNo)
  /-- EOR with a rotated immediate (R261, R183, R247). -/
  | eorImm (c : Cond) (s : Bool) (rn rd : RegNo) (rot : BitVec 4) (imm : BitVec 8)
  /-- EOR with Rm shifted by an amount in the instruction (R261, R185). -/
  | eorShImm (c : Cond) (s : Bool) (rn rd : RegNo) (amt : BitVec 5) (ty : ShiftType) (rm : RegNo)
  /-- EOR with Rm shifted by the bottom byte of Rs (R261, R185, R248). -/
  | eorShReg (c : Cond) (s : Bool) (rn rd rs : RegNo) (ty : ShiftType) (rm : RegNo)
  /-- SUB with a rotated immediate (R262, R183, R247). -/
  | subImm (c : Cond) (s : Bool) (rn rd : RegNo) (rot : BitVec 4) (imm : BitVec 8)
  /-- SUB with Rm shifted by an amount in the instruction (R262, R185). -/
  | subShImm (c : Cond) (s : Bool) (rn rd : RegNo) (amt : BitVec 5) (ty : ShiftType) (rm : RegNo)
  /-- SUB with Rm shifted by the bottom byte of Rs (R262, R185, R248). -/
  | subShReg (c : Cond) (s : Bool) (rn rd rs : RegNo) (ty : ShiftType) (rm : RegNo)
  /-- RSB with a rotated immediate (R263, R183, R247). -/
  | rsbImm (c : Cond) (s : Bool) (rn rd : RegNo) (rot : BitVec 4) (imm : BitVec 8)
  /-- RSB with Rm shifted by an amount in the instruction (R263, R185). -/
  | rsbShImm (c : Cond) (s : Bool) (rn rd : RegNo) (amt : BitVec 5) (ty : ShiftType) (rm : RegNo)
  /-- RSB with Rm shifted by the bottom byte of Rs (R263, R185, R248). -/
  | rsbShReg (c : Cond) (s : Bool) (rn rd rs : RegNo) (ty : ShiftType) (rm : RegNo)
  /-- ADD with a rotated immediate (R264, R183, R247). -/
  | addImm (c : Cond) (s : Bool) (rn rd : RegNo) (rot : BitVec 4) (imm : BitVec 8)
  /-- ADD with Rm shifted by an amount in the instruction (R264, R185). -/
  | addShImm (c : Cond) (s : Bool) (rn rd : RegNo) (amt : BitVec 5) (ty : ShiftType) (rm : RegNo)
  /-- ADD with Rm shifted by the bottom byte of Rs (R264, R185, R248). -/
  | addShReg (c : Cond) (s : Bool) (rn rd rs : RegNo) (ty : ShiftType) (rm : RegNo)
  /-- ADC with a rotated immediate (R265, R183, R247). -/
  | adcImm (c : Cond) (s : Bool) (rn rd : RegNo) (rot : BitVec 4) (imm : BitVec 8)
  /-- ADC with Rm shifted by an amount in the instruction (R265, R185). -/
  | adcShImm (c : Cond) (s : Bool) (rn rd : RegNo) (amt : BitVec 5) (ty : ShiftType) (rm : RegNo)
  /-- ADC with Rm shifted by the bottom byte of Rs (R265, R185, R248). -/
  | adcShReg (c : Cond) (s : Bool) (rn rd rs : RegNo) (ty : ShiftType) (rm : RegNo)
  /-- SBC with a rotated immediate (R266, R183, R247). -/
  | sbcImm (c : Cond) (s : Bool) (rn rd : RegNo) (rot : BitVec 4) (imm : BitVec 8)
  /-- SBC with Rm shifted by an amount in the instruction (R266, R185). -/
  | sbcShImm (c : Cond) (s : Bool) (rn rd : RegNo) (amt : BitVec 5) (ty : ShiftType) (rm : RegNo)
  /-- SBC with Rm shifted by the bottom byte of Rs (R266, R185, R248). -/
  | sbcShReg (c : Cond) (s : Bool) (rn rd rs : RegNo) (ty : ShiftType) (rm : RegNo)
  /-- RSC with a rotated immediate (R267, R183, R247). -/
  | rscImm (c : Cond) (s : Bool) (rn rd : RegNo) (rot : BitVec 4) (imm : BitVec 8)
  /-- RSC with Rm shifted by an amount in the instruction (R267, R185). -/
  | rscShImm (c : Cond) (s : Bool) (rn rd : RegNo) (amt : BitVec 5) (ty : ShiftType) (rm : RegNo)
  /-- RSC with Rm shifted by the bottom byte of Rs (R267, R185, R248). -/
  | rscShReg (c : Cond) (s : Bool) (rn rd rs : RegNo) (ty : ShiftType) (rm : RegNo)
  /-- TST with a rotated immediate (R268, R183, R247). -/
  | tstImm (c : Cond) (rn rd : RegNo) (rot : BitVec 4) (imm : BitVec 8)
  /-- TST with Rm shifted by an amount in the instruction (R268, R185). -/
  | tstShImm (c : Cond) (rn rd : RegNo) (amt : BitVec 5) (ty : ShiftType) (rm : RegNo)
  /-- TST with Rm shifted by the bottom byte of Rs (R268, R185, R248). -/
  | tstShReg (c : Cond) (rn rd rs : RegNo) (ty : ShiftType) (rm : RegNo)
  /-- TEQ with a rotated immediate (R269, R183, R247). -/
  | teqImm (c : Cond) (rn rd : RegNo) (rot : BitVec 4) (imm : BitVec 8)
  /-- TEQ with Rm shifted by an amount in the instruction (R269, R185). -/
  | teqShImm (c : Cond) (rn rd : RegNo) (amt : BitVec 5) (ty : ShiftType) (rm : RegNo)
  /-- TEQ with Rm shifted by the bottom byte of Rs (R269, R185, R248). -/
  | teqShReg (c : Cond) (rn rd rs : RegNo) (ty : ShiftType) (rm : RegNo)
  /-- CMP with a rotated immediate (R270, R183, R247). -/
  | cmpImm (c : Cond) (rn rd : RegNo) (rot : BitVec 4) (imm : BitVec 8)
  /-- CMP with Rm shifted by an amount in the instruction (R270, R185). -/
  | cmpShImm (c : Cond) (rn rd : RegNo) (amt : BitVec 5) (ty : ShiftType) (rm : RegNo)
  /-- CMP with Rm shifted by the bottom byte of Rs (R270, R185, R248). -/
  | cmpShReg (c : Cond) (rn rd rs : RegNo) (ty : ShiftType) (rm : RegNo)
  /-- CMN with a rotated immediate (R271, R183, R247). -/
  | cmnImm (c : Cond) (rn rd : RegNo) (rot : BitVec 4) (imm : BitVec 8)
  /-- CMN with Rm shifted by an amount in the instruction (R271, R185). -/
  | cmnShImm (c : Cond) (rn rd : RegNo) (amt : BitVec 5) (ty : ShiftType) (rm : RegNo)
  /-- CMN with Rm shifted by the bottom byte of Rs (R271, R185, R248). -/
  | cmnShReg (c : Cond) (rn rd rs : RegNo) (ty : ShiftType) (rm : RegNo)
  /-- ORR with a rotated immediate (R272, R183, R247). -/
  | orrImm (c : Cond) (s : Bool) (rn rd : RegNo) (rot : BitVec 4) (imm : BitVec 8)
  /-- ORR with Rm shifted by an amount in the instruction (R272, R185). -/
  | orrShImm (c : Cond) (s : Bool) (rn rd : RegNo) (amt : BitVec 5) (ty : ShiftType) (rm : RegNo)
  /-- ORR with Rm shifted by the bottom byte of Rs (R272, R185, R248). -/
  | orrShReg (c : Cond) (s : Bool) (rn rd rs : RegNo) (ty : ShiftType) (rm : RegNo)
  /-- MOV with a rotated immediate (R273, R183, R247). -/
  | movImm (c : Cond) (s : Bool) (rn rd : RegNo) (rot : BitVec 4) (imm : BitVec 8)
  /-- MOV with Rm shifted by an amount in the instruction (R273, R185). -/
  | movShImm (c : Cond) (s : Bool) (rn rd : RegNo) (amt : BitVec 5) (ty : ShiftType) (rm : RegNo)
  /-- MOV with Rm shifted by the bottom byte of Rs (R273, R185, R248). -/
  | movShReg (c : Cond) (s : Bool) (rn rd rs : RegNo) (ty : ShiftType) (rm : RegNo)
  /-- BIC with a rotated immediate (R274, R183, R247). -/
  | bicImm (c : Cond) (s : Bool) (rn rd : RegNo) (rot : BitVec 4) (imm : BitVec 8)
  /-- BIC with Rm shifted by an amount in the instruction (R274, R185). -/
  | bicShImm (c : Cond) (s : Bool) (rn rd : RegNo) (amt : BitVec 5) (ty : ShiftType) (rm : RegNo)
  /-- BIC with Rm shifted by the bottom byte of Rs (R274, R185, R248). -/
  | bicShReg (c : Cond) (s : Bool) (rn rd rs : RegNo) (ty : ShiftType) (rm : RegNo)
  /-- MVN with a rotated immediate (R275, R183, R247). -/
  | mvnImm (c : Cond) (s : Bool) (rn rd : RegNo) (rot : BitVec 4) (imm : BitVec 8)
  /-- MVN with Rm shifted by an amount in the instruction (R275, R185). -/
  | mvnShImm (c : Cond) (s : Bool) (rn rd : RegNo) (amt : BitVec 5) (ty : ShiftType) (rm : RegNo)
  /-- MVN with Rm shifted by the bottom byte of Rs (R275, R185, R248). -/
  | mvnShReg (c : Cond) (s : Bool) (rn rd rs : RegNo) (ty : ShiftType) (rm : RegNo)
  /-- MRS: a PSR to a register (R291). -/
  | mrs (c : Cond) (ps : PsrSel) (rd : RegNo)
  /-- MSR: a register to a whole PSR (R292). -/
  | msrPsr (c : Cond) (pd : PsrSel) (rm : RegNo)
  /-- MSR: a register to the flag bits of a PSR (R294). -/
  | msrFlagsReg (c : Cond) (pd : PsrSel) (rm : RegNo)
  /-- MSR: a rotated immediate to the flag bits of a PSR (R295). -/
  | msrFlagsImm (c : Cond) (pd : PsrSel) (rot : BitVec 4) (imm : BitVec 8)
  /-- MUL (R301); the Rn field is ignored. -/
  | mul (c : Cond) (s : Bool) (rd rn rs rm : RegNo)
  /-- MLA (R302). -/
  | mla (c : Cond) (s : Bool) (rd rn rs rm : RegNo)
  /-- SWP (R371).  `sbz`, bits [11:8], is ignored (U15); the spec's encodings put 0 there (R370). -/
  | swp (c : Cond) (rn rd rm : RegNo) (sbz : BitVec 4 := 0)
  /-- SWPB (R372).  `sbz`, bits [11:8], is ignored (U15); the spec's encodings put 0 there (R370). -/
  | swpb (c : Cond) (rn rd rm : RegNo) (sbz : BitVec 4 := 0)
  /-- LDR, immediate offset, pre-indexed (R313). -/
  | ldrImmPre (c : Cond) (up w : Bool) (rn rd : RegNo) (off : BitVec 12)
  /-- LDR, immediate offset, post-indexed (R313). -/
  | ldrImmPost (c : Cond) (up : Bool) (rn rd : RegNo) (off : BitVec 12)
  /-- LDR, register offset, pre-indexed (R313). -/
  | ldrRegPre (c : Cond) (up w : Bool) (rn rd : RegNo) (amt : BitVec 5) (ty : ShiftType) (rm : RegNo)
  /-- LDR, register offset, post-indexed (R313). -/
  | ldrRegPost (c : Cond) (up : Bool) (rn rd : RegNo) (amt : BitVec 5) (ty : ShiftType) (rm : RegNo)
  /-- LDRB, immediate offset, pre-indexed (R315). -/
  | ldrbImmPre (c : Cond) (up w : Bool) (rn rd : RegNo) (off : BitVec 12)
  /-- LDRB, immediate offset, post-indexed (R315). -/
  | ldrbImmPost (c : Cond) (up : Bool) (rn rd : RegNo) (off : BitVec 12)
  /-- LDRB, register offset, pre-indexed (R315). -/
  | ldrbRegPre (c : Cond) (up w : Bool) (rn rd : RegNo) (amt : BitVec 5) (ty : ShiftType) (rm : RegNo)
  /-- LDRB, register offset, post-indexed (R315). -/
  | ldrbRegPost (c : Cond) (up : Bool) (rn rd : RegNo) (amt : BitVec 5) (ty : ShiftType) (rm : RegNo)
  /-- STR, immediate offset, pre-indexed (R316). -/
  | strImmPre (c : Cond) (up w : Bool) (rn rd : RegNo) (off : BitVec 12)
  /-- STR, immediate offset, post-indexed (R316). -/
  | strImmPost (c : Cond) (up : Bool) (rn rd : RegNo) (off : BitVec 12)
  /-- STR, register offset, pre-indexed (R316). -/
  | strRegPre (c : Cond) (up w : Bool) (rn rd : RegNo) (amt : BitVec 5) (ty : ShiftType) (rm : RegNo)
  /-- STR, register offset, post-indexed (R316). -/
  | strRegPost (c : Cond) (up : Bool) (rn rd : RegNo) (amt : BitVec 5) (ty : ShiftType) (rm : RegNo)
  /-- STRB, immediate offset, pre-indexed (R317). -/
  | strbImmPre (c : Cond) (up w : Bool) (rn rd : RegNo) (off : BitVec 12)
  /-- STRB, immediate offset, post-indexed (R317). -/
  | strbImmPost (c : Cond) (up : Bool) (rn rd : RegNo) (off : BitVec 12)
  /-- STRB, register offset, pre-indexed (R317). -/
  | strbRegPre (c : Cond) (up w : Bool) (rn rd : RegNo) (amt : BitVec 5) (ty : ShiftType) (rm : RegNo)
  /-- STRB, register offset, post-indexed (R317). -/
  | strbRegPost (c : Cond) (up : Bool) (rn rd : RegNo) (amt : BitVec 5) (ty : ShiftType) (rm : RegNo)
  /-- LDRT, immediate offset (R318). -/
  | ldrtImm (c : Cond) (up : Bool) (rn rd : RegNo) (off : BitVec 12)
  /-- LDRT, register offset (R318). -/
  | ldrtReg (c : Cond) (up : Bool) (rn rd : RegNo) (amt : BitVec 5) (ty : ShiftType) (rm : RegNo)
  /-- LDRBT, immediate offset (R319). -/
  | ldrbtImm (c : Cond) (up : Bool) (rn rd : RegNo) (off : BitVec 12)
  /-- LDRBT, register offset (R319). -/
  | ldrbtReg (c : Cond) (up : Bool) (rn rd : RegNo) (amt : BitVec 5) (ty : ShiftType) (rm : RegNo)
  /-- STRT, immediate offset (R320). -/
  | strtImm (c : Cond) (up : Bool) (rn rd : RegNo) (off : BitVec 12)
  /-- STRT, register offset (R320). -/
  | strtReg (c : Cond) (up : Bool) (rn rd : RegNo) (amt : BitVec 5) (ty : ShiftType) (rm : RegNo)
  /-- STRBT, immediate offset (R321). -/
  | strbtImm (c : Cond) (up : Bool) (rn rd : RegNo) (off : BitVec 12)
  /-- STRBT, register offset (R321). -/
  | strbtReg (c : Cond) (up : Bool) (rn rd : RegNo) (amt : BitVec 5) (ty : ShiftType) (rm : RegNo)
  /-- LDM, S = 0, R15 not in the list (R344). -/
  | ldm (c : Cond) (pre up w : Bool) (rn : RegNo) (list : BitVec 15)
  /-- LDM, S = 0, R15 in the list (R345). -/
  | ldmPc (c : Cond) (pre up w : Bool) (rn : RegNo) (list : BitVec 15)
  /-- LDM, S = 1, R15 in the list: the SPSR to the CPSR (R346). -/
  | ldmPcRestore (c : Cond) (pre up w : Bool) (rn : RegNo) (list : BitVec 15)
  /-- LDM, S = 1, R15 not in the list: User bank (R350). -/
  | ldmUser (c : Cond) (pre up w : Bool) (rn : RegNo) (list : BitVec 15)
  /-- STM, S = 0 (R347). -/
  | stm (c : Cond) (pre up w : Bool) (rn : RegNo) (list : BitVec 16)
  /-- STM, S = 1: User bank (R351). -/
  | stmUser (c : Cond) (pre up w : Bool) (rn : RegNo) (list : BitVec 16)
  /-- B (R233). -/
  | b (c : Cond) (off : BitVec 24)
  /-- BL (R234). -/
  | bl (c : Cond) (off : BitVec 24)
  /-- LDC: always the undefined instruction trap (R390). -/
  | ldc (c : Cond) (pre up n w : Bool) (rn : RegNo) (crd cp : BitVec 4) (off : BitVec 8)
  /-- STC: always the undefined instruction trap (R392). -/
  | stc (c : Cond) (pre up n w : Bool) (rn : RegNo) (crd cp : BitVec 4) (off : BitVec 8)
  /-- CDP: always the undefined instruction trap (R387). -/
  | cdp (c : Cond) (opc crn crd cp : BitVec 4) (info : BitVec 3) (crm : BitVec 4)
  /-- MRC with a coprocessor number other than 15: the undefined instruction trap (R395). -/
  | mrc (c : Cond) (opc : BitVec 3) (crn : BitVec 4) (rd : RegNo) (cp : BitVec 4) (info : BitVec 3) (crm : BitVec 4)
  /-- MCR with a coprocessor number other than 15: the undefined instruction trap (R396). -/
  | mcr (c : Cond) (opc : BitVec 3) (crn : BitVec 4) (rd : RegNo) (cp : BitVec 4) (info : BitVec 3) (crm : BitVec 4)
  /-- MRC p15: read the ID register (R401). -/
  | mrcId (c : Cond) (opc : BitVec 3) (rd : RegNo) (info : BitVec 3) (crm : BitVec 4)
  /-- MCR p15: write the Control register (R402). -/
  | mcrControl (c : Cond) (opc : BitVec 3) (rd : RegNo) (info : BitVec 3) (crm : BitVec 4)
  /-- MCR p15: write the Translation Table Base (R403). -/
  | mcrTtb (c : Cond) (opc : BitVec 3) (rd : RegNo) (info : BitVec 3) (crm : BitVec 4)
  /-- MCR p15: write Domain Access Control (R404). -/
  | mcrDac (c : Cond) (opc : BitVec 3) (rd : RegNo) (info : BitVec 3) (crm : BitVec 4)
  /-- MRC p15: read the Fault Status register (R408). -/
  | mrcFsr (c : Cond) (opc : BitVec 3) (rd : RegNo) (info : BitVec 3) (crm : BitVec 4)
  /-- MCR p15: flush the TLB (R405). -/
  | mcrFlushTlb (c : Cond) (opc : BitVec 3) (rd : RegNo) (info : BitVec 3) (crm : BitVec 4)
  /-- MRC p15: read the Fault Address register (R409). -/
  | mrcFar (c : Cond) (opc : BitVec 3) (rd : RegNo) (info : BitVec 3) (crm : BitVec 4)
  /-- MCR p15: purge a TLB entry (R406). -/
  | mcrPurgeTlb (c : Cond) (opc : BitVec 3) (rd : RegNo) (info : BitVec 3) (crm : BitVec 4)
  /-- MCR p15: flush the cache (R407). -/
  | mcrFlushIdc (c : Cond) (opc : BitVec 3) (rd : RegNo) (info : BitVec 3) (crm : BitVec 4)
  /-- MCR p15: invalid write of register 0: no effect (R410). -/
  | mcrC0 (c : Cond) (opc : BitVec 3) (rd : RegNo) (info : BitVec 3) (crm : BitVec 4)
  /-- MRC p15: invalid read of register 1: any value (R410). -/
  | mrcC1 (c : Cond) (opc : BitVec 3) (rd : RegNo) (info : BitVec 3) (crm : BitVec 4)
  /-- MRC p15: invalid read of register 2: any value (R410). -/
  | mrcC2 (c : Cond) (opc : BitVec 3) (rd : RegNo) (info : BitVec 3) (crm : BitVec 4)
  /-- MRC p15: invalid read of register 3: any value (R410). -/
  | mrcC3 (c : Cond) (opc : BitVec 3) (rd : RegNo) (info : BitVec 3) (crm : BitVec 4)
  /-- MRC p15: invalid read of register 4: any value (R410). -/
  | mrcC4 (c : Cond) (opc : BitVec 3) (rd : RegNo) (info : BitVec 3) (crm : BitVec 4)
  /-- MCR p15: invalid write of register 4: no effect (R410). -/
  | mcrC4 (c : Cond) (opc : BitVec 3) (rd : RegNo) (info : BitVec 3) (crm : BitVec 4)
  /-- MRC p15: invalid read of register 7: any value (R410). -/
  | mrcC7 (c : Cond) (opc : BitVec 3) (rd : RegNo) (info : BitVec 3) (crm : BitVec 4)
  /-- MRC p15 to registers 8 to 15: the undefined instruction trap in every mode (R398). -/
  | mrcHigh (c : Cond) (opc crn : BitVec 3) (rd : RegNo) (info : BitVec 3) (crm : BitVec 4)
  /-- MCR p15 to registers 8 to 15: the undefined instruction trap in every mode (R398). -/
  | mcrHigh (c : Cond) (opc crn : BitVec 3) (rd : RegNo) (info : BitVec 3) (crm : BitVec 4)
  /-- SWI (R380). -/
  | swi (c : Cond) (comment : BitVec 24)
  /-- the Undefined instruction format (R420). -/
  | undefined (c : Cond) (hi : BitVec 20) (lo : BitVec 4)
  deriving DecidableEq, Repr

/-- The condition field of an instruction: every instruction has one (rule R181). -/
def Instr.cond (i : Instr) : Cond :=
  match i with
  | .andImm c .. => c
  | .andShImm c .. => c
  | .andShReg c .. => c
  | .eorImm c .. => c
  | .eorShImm c .. => c
  | .eorShReg c .. => c
  | .subImm c .. => c
  | .subShImm c .. => c
  | .subShReg c .. => c
  | .rsbImm c .. => c
  | .rsbShImm c .. => c
  | .rsbShReg c .. => c
  | .addImm c .. => c
  | .addShImm c .. => c
  | .addShReg c .. => c
  | .adcImm c .. => c
  | .adcShImm c .. => c
  | .adcShReg c .. => c
  | .sbcImm c .. => c
  | .sbcShImm c .. => c
  | .sbcShReg c .. => c
  | .rscImm c .. => c
  | .rscShImm c .. => c
  | .rscShReg c .. => c
  | .tstImm c .. => c
  | .tstShImm c .. => c
  | .tstShReg c .. => c
  | .teqImm c .. => c
  | .teqShImm c .. => c
  | .teqShReg c .. => c
  | .cmpImm c .. => c
  | .cmpShImm c .. => c
  | .cmpShReg c .. => c
  | .cmnImm c .. => c
  | .cmnShImm c .. => c
  | .cmnShReg c .. => c
  | .orrImm c .. => c
  | .orrShImm c .. => c
  | .orrShReg c .. => c
  | .movImm c .. => c
  | .movShImm c .. => c
  | .movShReg c .. => c
  | .bicImm c .. => c
  | .bicShImm c .. => c
  | .bicShReg c .. => c
  | .mvnImm c .. => c
  | .mvnShImm c .. => c
  | .mvnShReg c .. => c
  | .mrs c .. => c
  | .msrPsr c .. => c
  | .msrFlagsReg c .. => c
  | .msrFlagsImm c .. => c
  | .mul c .. => c
  | .mla c .. => c
  | .swp c .. => c
  | .swpb c .. => c
  | .ldrImmPre c .. => c
  | .ldrImmPost c .. => c
  | .ldrRegPre c .. => c
  | .ldrRegPost c .. => c
  | .ldrbImmPre c .. => c
  | .ldrbImmPost c .. => c
  | .ldrbRegPre c .. => c
  | .ldrbRegPost c .. => c
  | .strImmPre c .. => c
  | .strImmPost c .. => c
  | .strRegPre c .. => c
  | .strRegPost c .. => c
  | .strbImmPre c .. => c
  | .strbImmPost c .. => c
  | .strbRegPre c .. => c
  | .strbRegPost c .. => c
  | .ldrtImm c .. => c
  | .ldrtReg c .. => c
  | .ldrbtImm c .. => c
  | .ldrbtReg c .. => c
  | .strtImm c .. => c
  | .strtReg c .. => c
  | .strbtImm c .. => c
  | .strbtReg c .. => c
  | .ldm c .. => c
  | .ldmPc c .. => c
  | .ldmPcRestore c .. => c
  | .ldmUser c .. => c
  | .stm c .. => c
  | .stmUser c .. => c
  | .b c .. => c
  | .bl c .. => c
  | .ldc c .. => c
  | .stc c .. => c
  | .cdp c .. => c
  | .mrc c .. => c
  | .mcr c .. => c
  | .mrcId c .. => c
  | .mcrControl c .. => c
  | .mcrTtb c .. => c
  | .mcrDac c .. => c
  | .mrcFsr c .. => c
  | .mcrFlushTlb c .. => c
  | .mrcFar c .. => c
  | .mcrPurgeTlb c .. => c
  | .mcrFlushIdc c .. => c
  | .mcrC0 c .. => c
  | .mrcC1 c .. => c
  | .mrcC2 c .. => c
  | .mrcC3 c .. => c
  | .mrcC4 c .. => c
  | .mcrC4 c .. => c
  | .mrcC7 c .. => c
  | .mrcHigh c .. => c
  | .mcrHigh c .. => c
  | .swi c .. => c
  | .undefined c .. => c

end Sys2Proof
end

