-- ==== Sys2Proof/Machine/State.lean ====
section
/-! DEFINITION. The state of the machine as plain data (file 10), the reasons a step can stop, and the state right after
reset (rules R70, R490). -/

namespace Sys2Proof.Machine

/-- The six processor modes of rule R22. -/
inductive Mode where
  | usr | fiq | irq | svc | abt | und
  deriving DecidableEq, Repr

/-- The 30 physical general registers other than R15 (rule R21), each under the spec's own name. -/
inductive PReg where
  | r0 | r1 | r2 | r3 | r4 | r5 | r6 | r7 | r8 | r9 | r10 | r11 | r12 | r13Usr | r14Usr
  | r8Fiq | r9Fiq | r10Fiq | r11Fiq | r12Fiq | r13Fiq | r14Fiq
  | r13Irq | r14Irq | r13Svc | r14Svc | r13Abt | r14Abt | r13Und | r14Und
  deriving DecidableEq, Repr

/-- The registers of coprocessor 15 that hold state (rules R52 to R56).  Register 0 is a constant (`Config.idRevision`);
registers 5, 6 and 7 when written are operations (rule R57). -/
structure Cp15 where
  /-- Register 1, Control (rule R52): bits M A C W P D 6 B S R 10, from bit 0 up. -/
  control : Word
  /-- Register 2, Translation Table Base (rule R53). -/
  ttb : Word
  /-- Register 3, Domain Access Control (rule R54). -/
  dac : Word
  /-- Register 5 read, FSR bits [3:0]: the status of the last data fault (rule R55). -/
  fsrStatus : BitVec 4
  /-- Register 5 read, FSR bits [7:4]: the domain of the last data fault (rule R55). -/
  fsrDomain : BitVec 4
  /-- Register 6 read, the Fault Address Register (rule R56). -/
  far : Word
  deriving DecidableEq, Repr

/-- What a TLB entry maps: a section (1 MB), a large page (64 kB) or a small page (4 kB), with its virtual tag, its
physical base and its AP bits (rules R106 to R112, R140).  The tag of a large page is `va[31:12]`: each of the 16 copies of
its descriptor serves the 4 kB that indexes it (rule R111, log entry 41). -/
inductive Mapping where
  | sectionMap (vtag base : BitVec 12) (ap : BitVec 2)
  | large (vtag : BitVec 20) (base : BitVec 16) (aps : BitVec 8)
  | small (vtag base : BitVec 20) (aps : BitVec 8)
  deriving DecidableEq, Repr

/-- A TLB entry, the `e` of rule R124: the mapping, the domain number and the C and B bits (rule R140, D12). -/
structure TlbEntry where
  map : Mapping
  domain : BitVec 4
  cacheable : Bool
  bufferable : Bool
  deriving DecidableEq, Repr

/-- A cache line: the bank it lies in, its tag `va[31:4]` and its four bus words, word 0 first (rule R160). -/
structure CacheLine where
  bank : BitVec 2
  tag : BitVec 28
  words : Vector Word 4
  deriving DecidableEq, Repr

/-- A write waiting in the write buffer (rule R167): the physical address, the byte lanes it stores (bit L for lane L), the
bus word, and whether it continues the address slot of the write before it. -/
structure Pending where
  pa : Word
  lanes : BitVec 4
  data : Word
  seq : Bool
  deriving DecidableEq, Repr

/-- What a prefetch brought back (rules R63, R95). -/
inductive Fetched where
  /-- The bus word, read from physical address `pa`. -/
  | word (w pa : Word)
  /-- The fetch was aborted: the word is marked, and a prefetch abort is taken if it reaches execution. -/
  | aborted
  /-- The permission check met `Control.S = Control.R = 1`, which is reserved (rule R114, U20). -/
  | reservedPermission
  deriving DecidableEq, Repr

/-- One word of the instruction pipeline: the virtual address it was fetched from and what came back (rule R63). -/
structure Slot where
  va : Word
  got : Fetched
  deriving DecidableEq, Repr

/-- The kinds of external access that the ABORT input can tell apart (rules R150, R532). -/
inductive BusKind where
  | read | write | linefetch | level1 | level2 | lockedRead | lockedWrite
  deriving DecidableEq, Repr

/-- A part of `ABORT(pa, kind)` (rule R9): the physical word addresses `lo` to `hi` (as `pa[31:2]`) on which the platform
asserts ABORT for an access of one of `kinds`.  It is the platform's, not the processor's. -/
structure AbortRange where
  lo : Nat
  hi : Nat
  kinds : List BusKind
  deriving DecidableEq, Repr

/-- A part of `PhysMem` that is not plain memory (rules R9, R83, R98, R477; D6): on the physical word addresses `lo` to
`hi` a device or another bus master answers, and a read that goes to the bus returns any value. -/
structure VolatileRange where
  lo : Nat
  hi : Nat
  deriving DecidableEq, Repr

/-- The memory system behind the core: physical memory, write buffer, cache, TLB, prefetched words, and what the platform
fixes about physical addresses. -/
structure MemSys where
  /-- `PhysMem` (rule R82) as lane bytes: the cell at `4 * wa + L` is lane L, bits [8L+7:8L], of the bus word at word
  address `wa`.  Addresses strictly rising, no entry equal to `Memory.unlisted`. -/
  mem : List Host.Cell
  /-- The write buffer (rules R61, R167), oldest first. -/
  wbuf : List Pending
  /-- The cache (rules R60, R160). -/
  cache : List CacheLine
  /-- The 64 locations of the TLB (rules R62, R140). -/
  tlb : Vector (Option TlbEntry) 64
  /-- The location the next translation overwrites (rule R141). -/
  tlbNext : BitVec 6
  /-- The prefetched words (rule R63), the one at the PC first. -/
  pipe : List Slot
  /-- `ABORT(pa, kind)` (rule R9). -/
  busAborts : List AbortRange
  /-- Where `PhysMem` is a device or is written by another bus master (rule R9, D6). -/
  volatile : List VolatileRange
  /-- The model's own: how many free values have been drawn from `Config.freeWord`. -/
  free : Nat
  deriving DecidableEq, Repr

/-- The interrupt and reset inputs as the model sees them at one instruction boundary (rules R9, R440; D9): true when
asserted, after the synchronisers. -/
structure Inputs where
  fiq : Bool
  irq : Bool
  reset : Bool
  deriving DecidableEq, Repr

/-- The whole state of the machine. -/
structure State where
  /-- The 30 general registers other than R15, at `PReg.idx` (rule R21). -/
  regs : Vector Word 30
  /-- R15 as `ia`, the byte address of the instruction to execute (rule R30). -/
  pc : Word
  /-- The CPSR, all 32 bits (rules R35, R39). -/
  cpsr : Word
  /-- The five SPSRs (rule R38). -/
  spsrFiq : Word
  spsrIrq : Word
  spsrSvc : Word
  spsrAbt : Word
  spsrUnd : Word
  /-- The registers of coprocessor 15 (rule R50). -/
  cp15 : Cp15
  /-- The memory system. -/
  sys : MemSys
  /-- The instruction just executed was a User-bank LDM (rules R350, R512): a banked register read now gives any value. -/
  bankHazard : Bool
  /-- F_in, I_in and Reset_in at the coming instruction boundaries, the next one first; none asserted past the end. -/
  inputs : List Inputs
  deriving DecidableEq, Repr

/-- Why the machine stops with a fault. -/
inductive Fault where
  /-- CPSR.M holds none of the six mode numbers: "the processor will enter an unrecoverable state" that only Reset leaves
  (rule R37, U1).  Raised by every step and every instruction in such a state.  Safe: nothing is claimed to run. -/
  | unrecoverableMode
  deriving DecidableEq, Repr

/-- Why the machine gives a case no meaning: each is a case that the spec calls UNPREDICTABLE and gives the treatment
`refuse` (file 93), but for the first.  All safe: the chip does something there, the model claims nothing. -/
inductive Refusal where
  /-- The instruction has no meaning yet.  Raised by `exec` alone. -/
  | notModelled (mnemonic : String)
  /-- The word is not an instruction (rule R201 (a), (b); U3, U4).  Raised by `step`. -/
  | undefinedEncoding (why : DecodeReject)
  /-- Control.P = 0 or Control.D = 0: the 26-bit configurations have no rules (rules R6, R7; D1, U25).  Raised by `step`
  and by every instruction. -/
  | configuration26
  /-- A data processing instruction with S = 1 and Rd = R15 in User mode (rule R252, U5). -/
  | pcWithFlagsInUserMode
  /-- R15 as the shift amount register (rule R248, U6). -/
  | shiftAmountR15
  /-- R15 in an MRS or MSR (rules R291, R292, U7). -/
  | psrTransferR15
  /-- An MRS or MSR naming the SPSR in User mode, where none exists (rule R293, U7). -/
  | spsrInUserMode
  /-- R15 as an operand or the destination of a multiply (rule R304, U8). -/
  | multiplyR15
  /-- Base write-back to R15 in an LDR or STR (rule R322, U9). -/
  | writeBackR15
  /-- R15 as the register offset of an LDR or STR (rule R322, U9). -/
  | offsetR15
  /-- A post-indexed LDR or STR whose offset register is the base (rule R323, U9). -/
  | postIndexByBase
  /-- R15 as the base of an LDM or STM (rule R353, U10). -/
  | blockBaseR15
  /-- An LDM or STM with an empty register list (rule R353, U10). -/
  | emptyRegisterList
  /-- An LDM or STM with the S bit in User mode (rule R349, U10). -/
  | blockSBitInUserMode
  /-- Base write-back in a User-bank LDM or STM (rules R350, R351, U10). -/
  | userBankWriteBack
  /-- R15 as an operand of SWP or SWPB (rule R373, U11). -/
  | swapR15
  /-- An MCR with a 1 in a bit that shall be 0 (rules R402, R403, R406, U12). -/
  | cp15ReservedData
  /-- An MRC or MCR to coprocessor 15 with a non-zero CP Opc, CP or CRm field (rule R411, U13). -/
  | cp15ReservedFields
  /-- A permission check with Control.S = 1 and Control.R = 1 (rule R114, U20). -/
  | reservedPermission
  /-- An MCR that enables the cache or the write buffer with the MMU disabled (rules R177, R402, U22). -/
  | enableWithoutMmu
  deriving DecidableEq, Repr

/-- The reset values of the coprocessor 15 registers: Control all LOW (rule R52); Translation Table Base, Domain Access
Control, FSR and FAR have none in the spec (rule R70) and are zero (DESIGN CHOICE, log entry 4). -/
def Cp15.reset : Cp15 :=
  { control := 0, ttb := 0, dac := 0, fsrStatus := 0, fsrDomain := 0, far := 0 }

/-- The memory system after reset: no valid TLB entry, no valid cache line, an empty write buffer and an empty pipeline
(rules R70, R490); memory with nothing listed (log entry 6), a TLB pointer of 0 (log entry 13), a platform that asserts no
ABORT and is plain memory everywhere (log entries 7, 9). -/
def MemSys.reset : MemSys :=
  { mem := [], wbuf := [], cache := [], tlb := Vector.replicate 64 none, tlbNext := 0, pipe := [],
    busAborts := [], volatile := [], free := 0 }

/-- The machine right after reset (rules R70, R490): pc 0, Supervisor mode with I and F set, Control 0.  The general
registers, the SPSRs and the flags have no value in the spec and are zero (DESIGN CHOICE, log entries 1, 2, 3). -/
def State.reset : State :=
  { regs := Vector.replicate 30 0, pc := 0, cpsr := 0x000000D3,
    spsrFiq := 0, spsrIrq := 0, spsrSvc := 0, spsrAbt := 0, spsrUnd := 0,
    cp15 := Cp15.reset, sys := MemSys.reset, bankHazard := false, inputs := [] }

/-- The launch state of decision D2: the reset state with Control.P and Control.D set, which software must do first
(rule R495, step 3). -/
def State.launch : State :=
  { State.reset with cp15 := { Cp15.reset with control := 0x00000030 } }

end Sys2Proof.Machine
end

