-- ==== Sys2Proof/Machine/Bits.lean ====
section
/-! DEFINITION. Bit-field helpers: the lanes of a bus word, word alignment, byte lanes and the condition-free shifts that
the rules of files 10 and 20 name. -/

namespace Sys2Proof.Machine

/-- `v[31:2] : 00` (rules R30, R32). -/
def alignWord (v : Word) : Word := v &&& 0xFFFFFFFC#32

/-- `a[1:0] = 0` (rule R80). -/
def isAligned (a : Word) : Bool := a &&& 3#32 == 0#32

/-- The word address `pa[31:2]` of a bus transfer (rule R82). -/
def wordIndex (pa : Word) : Nat := pa.toNat / 4

/-- Lane `L` of a bus word: `w[8L+7:8L]` (rule R82). -/
def laneByte (w : Word) (lane : Nat) : Byte := w.extractLsb' (8 * lane) 8

/-- The bus word whose lanes 0 to 3 are the four bytes (rule R82). -/
def ofLanes (b0 b1 b2 b3 : Byte) : Word := b3 ++ b2 ++ b1 ++ b0

/-- `old` with the lanes that `lanes` selects taken from `new` (rules R82, R93, R162). -/
def mergeLanes (lanes : BitVec 4) (old new : Word) : Word :=
  ofLanes (laneByte (if lanes.getLsbD 0 then new else old) 0) (laneByte (if lanes.getLsbD 1 then new else old) 1)
    (laneByte (if lanes.getLsbD 2 then new else old) 2) (laneByte (if lanes.getLsbD 3 then new else old) 3)

/-- A byte repeated four times across the data bus (rule R93). -/
def repeatByte (b : Byte) : Word := ofLanes b b b b

/-- `Lane(a)` (rule R82): the bus lane of the byte at address `a`, `a[1:0]` or, in the big-endian configuration,
`3 - a[1:0]`. -/
def byteLane (bigEndian : Bool) (a : Word) : Nat :=
  if bigEndian then 3 - a.toNat % 4 else a.toNat % 4

/-- The rotation of a word read: right by `8 * a[1:0]` (rule R90). -/
def rotateRead (a w : Word) : Word := w.rotateRight (8 * (a.toNat % 4))

/-- A byte zero-extended to a word (rule R91). -/
def zeroExtendByte (b : Byte) : Word := b.setWidth 32

/-- `ROR(zext_8(imm), 2 * rot)` (rules R197, R247). -/
def rotatedImmediate (rot : BitVec 4) (imm : BitVec 8) : Word :=
  (imm.setWidth 32 : Word).rotateRight (2 * rot.toNat)

end Sys2Proof.Machine
end

