-- ==== Sys2Proof/Machine/Memory.lean ====
section
/-! DEFINITION. Physical memory (rules R80 to R83) as a canonical list of lane bytes, and its named operations.  The cell at
address `4 * wa + L` is lane `L` of the bus word at word address `wa` (log entry 8). -/

namespace Sys2Proof.Machine

/-- What an unlisted cell reads as.  The spec gives memory no contents at power-on (rule R83): zero (DESIGN CHOICE, unsafe,
log entry 6). -/
def Memory.unlisted : Byte := 0

/-- The number of cells: the 2^32 bytes of the physical address space (rule R66). -/
def Memory.size : Nat := 4294967296

/-- Addresses strictly rising from `lo` on, every address below `Memory.size`, no entry equal to `Memory.unlisted`. -/
def Memory.wfFrom (lo : Nat) : List Host.Cell → Bool
  | [] => true
  | c :: cs => decide (lo ≤ c.1) && decide (c.1 < Memory.size) && decide (c.2 ≠ Memory.unlisted) &&
      Memory.wfFrom (c.1 + 1) cs

/-- The canonical form of memory. -/
def Memory.wf (mem : List Host.Cell) : Bool := Memory.wfFrom 0 mem

/-- The byte in cell `a`. -/
def Memory.readByte (mem : List Host.Cell) (a : Nat) : Byte :=
  match mem with
  | [] => Memory.unlisted
  | c :: cs => if c.1 = a then c.2 else Memory.readByte cs a

/-- Memory without cell `a`. -/
def Memory.erase (mem : List Host.Cell) (a : Nat) : List Host.Cell := mem.filter fun c => c.1 != a

/-- A cell put in its place among rising addresses. -/
def Memory.insert (a : Nat) (b : Byte) (mem : List Host.Cell) : List Host.Cell :=
  match mem with
  | [] => [(a, b)]
  | c :: cs => if c.1 < a then c :: Memory.insert a b cs else (a, b) :: c :: cs

/-- Store `b` in cell `a`, keeping the canonical form: a cell that holds what an unlisted cell reads as is not listed. -/
def Memory.writeByte (mem : List Host.Cell) (a : Nat) (b : Byte) : List Host.Cell :=
  if b = Memory.unlisted then Memory.erase mem a else Memory.insert a b (Memory.erase mem a)

/-- `PhysMem[wa]`: the bus word at word address `wa` (rule R82). -/
def Memory.readWord (mem : List Host.Cell) (wa : Nat) : Word :=
  ofLanes (Memory.readByte mem (4 * wa)) (Memory.readByte mem (4 * wa + 1)) (Memory.readByte mem (4 * wa + 2))
    (Memory.readByte mem (4 * wa + 3))

/-- Store one lane of `w` at word address `wa`, if `on`. -/
def Memory.writeLane (mem : List Host.Cell) (wa : Nat) (on : Bool) (lane : Nat) (w : Word) : List Host.Cell :=
  if on then Memory.writeByte mem (4 * wa + lane) (laneByte w lane) else mem

/-- Store the lanes of `w` that `lanes` selects at word address `wa`; the others keep their contents (rule R83). -/
def Memory.writeLanes (mem : List Host.Cell) (wa : Nat) (lanes : BitVec 4) (w : Word) : List Host.Cell :=
  Memory.writeLane
    (Memory.writeLane
      (Memory.writeLane (Memory.writeLane mem wa (lanes.getLsbD 0) 0 w) wa (lanes.getLsbD 1) 1 w)
      wa (lanes.getLsbD 2) 2 w)
    wa (lanes.getLsbD 3) 3 w

/-- A buffered write reaches `PhysMem` (rule R167). -/
def Pending.perform (p : Pending) (mem : List Host.Cell) : List Host.Cell :=
  Memory.writeLanes mem (wordIndex p.pa) p.lanes p.data

/-- Memory after a queue of writes, the oldest first. -/
def Memory.afterWrites (mem : List Host.Cell) : List Pending → List Host.Cell
  | [] => mem
  | p :: ps => Memory.afterWrites (p.perform mem) ps

end Sys2Proof.Machine
end

