-- ==== Sys2Proof/Machine/Bus.lean ====
section
/-! DEFINITION. The external bus and the write buffer: free values, aborts, draining, external reads and writes
(file 20, sections 1, 8, 10 and 11). -/

namespace Sys2Proof.Machine

/-- What Table 9-4 calls the source of a data fault (rule R120), and the external abort taken with the MMU off
(rule R154). -/
inductive FaultStatus where
  | alignment | busLevel1 | busLevel2 | translationSection | translationPage | domainSection | domainPage
  | permissionSection | permissionPage | busLinefetchSection | busLinefetchPage | busOtherSection | busOtherPage
  | busUnmapped
  deriving DecidableEq, Repr

/-- A fault of a memory access: its source, the domain where Table 9-4 calls it valid, and the virtual address for the FAR
(rule R120). -/
structure MemFault where
  status : FaultStatus
  domain : Option (BitVec 4)
  va : Word
  deriving DecidableEq, Repr

/-- How a memory access ends: with a value, with an abort, or in a case the spec leaves unpredictable.  The memory system
has moved on in the first two. -/
inductive Access (α : Type) where
  | ok (a : α) (m : MemSys)
  | abort (f : MemFault) (m : MemSys)
  | refuse (r : Refusal)
  deriving DecidableEq, Repr

/-- One access after another. -/
def Access.andThen {α β : Type} (x : Access α) (f : α → MemSys → Access β) : Access β :=
  match x with
  | .ok a m => f a m
  | .abort e m => .abort e m
  | .refuse r => .refuse r

/-- The next free value `ANY32` (rule R13). -/
def MemSys.draw (m : MemSys) : Word × MemSys := (Config.freeWord m.free, { m with free := m.free + 1 })

/-- The next free bit `ANY1` (rule R13). -/
def MemSys.drawBit (m : MemSys) : Bool × MemSys := (m.draw.1.getLsbD 0, m.draw.2)

/-- `ABORT(pa, kind)` (rules R9, R150). -/
def MemSys.asserts (m : MemSys) (k : BusKind) (pa : Word) : Bool :=
  m.busAborts.any fun r => decide (r.lo ≤ wordIndex pa) && decide (wordIndex pa ≤ r.hi) && r.kinds.contains k

/-- Does something other than plain memory answer at `pa` (rules R9, R83)? -/
def MemSys.isVolatile (m : MemSys) (pa : Word) : Bool :=
  m.volatile.any fun r => decide (r.lo ≤ wordIndex pa) && decide (wordIndex pa ≤ r.hi)

/-- All buffered writes reach memory, in order (rules R167, R169, R171). -/
def MemSys.drainAll (m : MemSys) : MemSys :=
  { m with mem := Memory.afterWrites m.mem m.wbuf, wbuf := [] }

/-- The oldest `n` buffered writes reach memory (rule R167). -/
def MemSys.drainOldest (n : Nat) (m : MemSys) : MemSys :=
  { m with mem := Memory.afterWrites m.mem (m.wbuf.take n), wbuf := m.wbuf.drop n }

/-- Between two instructions the buffer drains as far as the bus has come: any number of writes (rule R167,
log entry 14). -/
def MemSys.drainSome (m : MemSys) : MemSys :=
  if m.wbuf.isEmpty then m else m.draw.2.drainOldest (m.draw.1.toNat % (m.wbuf.length + 1))

/-- The bus word a read at `pa` brings back: any value from a volatile location (rules R82, R83, D6). -/
def MemSys.busWord (m : MemSys) (pa : Word) : Word × MemSys :=
  if m.isVolatile pa then m.draw else (Memory.readWord m.mem (wordIndex pa), m)

/-- An external read of one word, after all earlier buffered writes (rules R96, R123, R171; D11): the word, or none if
ABORT is asserted (rule R150). -/
def MemSys.externalRead (m : MemSys) (k : BusKind) (pa : Word) : Option Word × MemSys :=
  if m.asserts k pa then (none, m.drainAll)
  else (some (m.drainAll.busWord pa).1, (m.drainAll.busWord pa).2)

/-- The address slots a queue of buffered writes takes: one for each write that does not continue the one before it
(rule R167). -/
def addressSlots : List Pending → Nat
  | [] => 0
  | _ :: ps => 1 + (ps.filter fun p => !p.seq).length

/-- Does the write buffer hold `q` (rule R167): 8 words of data, 4 addresses? -/
def bufferHolds (q : List Pending) : Bool := decide (q.length ≤ 8) && decide (addressSlots q ≤ 4)

/-- Drain the oldest writes until there is room for `p` behind the rest (rule R168): memory and the writes that are left. -/
def makeRoom (p : Pending) (mem : List Host.Cell) : List Pending → List Host.Cell × List Pending
  | [] => (mem, [])
  | q :: qs => if bufferHolds ((q :: qs) ++ [p]) then (mem, q :: qs) else makeRoom p (q.perform mem) qs

/-- Put a write into the write buffer, stalling for room (rule R168). -/
def MemSys.enqueue (m : MemSys) (p : Pending) : MemSys :=
  { m with mem := (makeRoom p m.mem m.wbuf).1, wbuf := (makeRoom p m.mem m.wbuf).2 ++ [p] }

/-- Does a write to `pa` continue the address of the youngest buffered write: the next word, not across a 256-word boundary
(rules R167, R179)? -/
def MemSys.continues (m : MemSys) (pa : Word) : Bool :=
  match m.wbuf.getLast? with
  | none => false
  | some q => decide (wordIndex pa = wordIndex q.pa + 1) && decide (wordIndex pa % 256 ≠ 0)

/-- A buffered write (rules R168, R152): ABORT is ignored, and at a location that asserts it the write is performed or
lost, as the platform decides (log entry 18).  `sequential`: the word continues a block transfer. -/
def MemSys.bufferedWrite (m : MemSys) (sequential : Bool) (pa : Word) (lanes : BitVec 4) (w : Word) : MemSys :=
  if m.asserts .write pa then
    m.drawBit.2.enqueue
      { pa := pa, lanes := if m.drawBit.1 then lanes else 0, data := w, seq := sequential && m.continues pa }
  else m.enqueue { pa := pa, lanes := lanes, data := w, seq := sequential && m.continues pa }

/-- The write at `pa` reaches `PhysMem`. -/
def MemSys.store (m : MemSys) (pa : Word) (lanes : BitVec 4) (w : Word) : MemSys :=
  { m with mem := Memory.writeLanes m.mem (wordIndex pa) lanes w }

/-- An unbuffered write (rules R169, R170, R150): the buffer empties first; if ABORT is asserted the platform may or may not
have performed the write (log entry 17), and `fault` is raised. -/
def MemSys.unbufferedWrite (m : MemSys) (k : BusKind) (fault : MemFault) (pa : Word) (lanes : BitVec 4) (w : Word) :
    Access Unit :=
  if m.asserts k pa then
    .abort fault (if m.drainAll.drawBit.1 then m.drainAll.drawBit.2.store pa lanes w else m.drainAll.drawBit.2)
  else .ok () (m.drainAll.store pa lanes w)

/-- The byte in cell `a` once every write the processor has made has reached memory: what a program has stored there,
whether or not it still stands in the write buffer (rules R167, R171). -/
def MemSys.physByte (m : MemSys) (a : Nat) : Byte := Memory.readByte (Memory.afterWrites m.mem m.wbuf) a

/-- The word made of four such bytes. -/
def MemSys.physWord (m : MemSys) (wa : Nat) : Word := Memory.readWord (Memory.afterWrites m.mem m.wbuf) wa

end Sys2Proof.Machine
end

