-- ==== Sys2Proof/Machine/Mmu.lean ====
section
/-! DEFINITION. The MMU: TLB, translation table walk and access checks (file 20, sections 6 and 7). -/

namespace Sys2Proof.Machine

/-- Control.M: the MMU is on (rule R52). -/
def Cp15.mmuOn (cp : Cp15) : Bool := cp.control.getLsbD 0
/-- Control.A: alignment faults are on (rule R52). -/
def Cp15.alignmentOn (cp : Cp15) : Bool := cp.control.getLsbD 1
/-- Control.C: the cache is on (rule R52). -/
def Cp15.cacheOn (cp : Cp15) : Bool := cp.control.getLsbD 2
/-- Control.W: the write buffer is on (rule R52). -/
def Cp15.writeBufferOn (cp : Cp15) : Bool := cp.control.getLsbD 3
/-- Control.P: 32-bit program space (rule R52). -/
def Cp15.prog32 (cp : Cp15) : Bool := cp.control.getLsbD 4
/-- Control.D: 32-bit data space (rule R52). -/
def Cp15.data32 (cp : Cp15) : Bool := cp.control.getLsbD 5
/-- Control.B: big-endian (rule R52). -/
def Cp15.bigEndian (cp : Cp15) : Bool := cp.control.getLsbD 7
/-- Control.S, the System bit (rules R52, R114). -/
def Cp15.system (cp : Cp15) : Bool := cp.control.getLsbD 8
/-- Control.R, the ROM bit (rules R52, R114). -/
def Cp15.rom (cp : Cp15) : Bool := cp.control.getLsbD 9

/-- Does the mapping cover `va` (rules R111, R124): is `va` in its section, in its small page, or in the 4 kB for which its
large page descriptor is interpreted (log entry 41)? -/
def Mapping.covers (e : Mapping) (va : Word) : Bool :=
  match e with
  | .sectionMap vtag _ _ => vtag == va.extractLsb' 20 12
  | .large vtag _ _ => vtag == va.extractLsb' 12 20
  | .small vtag _ _ => vtag == va.extractLsb' 12 20

/-- Does `va` lie in the section (1 MB), large page (64 kB) or small page (4 kB) that the entry maps (rule R406)?  A large
page reaches over all 16 of its descriptors. -/
def Mapping.inPage (e : Mapping) (va : Word) : Bool :=
  match e with
  | .sectionMap vtag _ _ => vtag == va.extractLsb' 20 12
  | .large vtag _ _ => vtag.extractLsb' 4 16 == va.extractLsb' 16 16
  | .small vtag _ _ => vtag == va.extractLsb' 12 20

/-- The physical address of `va` (rules R107, R110, R111). -/
def Mapping.physical (e : Mapping) (va : Word) : Word :=
  match e with
  | .sectionMap _ base _ => base ++ va.extractLsb' 0 20
  | .large _ base _ => base ++ va.extractLsb' 0 16
  | .small _ base _ => base ++ va.extractLsb' 0 12

/-- The access permission bits that govern `va`: the section's, or those of the sub-page (rules R110, R111, R112). -/
def Mapping.permission (e : Mapping) (va : Word) : BitVec 2 :=
  match e with
  | .sectionMap _ _ ap => ap
  | .large _ _ aps => aps.extractLsb' (2 * (va.extractLsb' 14 2).toNat) 2
  | .small _ _ aps => aps.extractLsb' (2 * (va.extractLsb' 10 2).toNat) 2

/-- Is it a section (rule R120: "Section" or "Page")? -/
def Mapping.isSection : Mapping → Bool
  | .sectionMap .. => true
  | .large .. => false
  | .small .. => false

/-- The valid TLB entries that cover `va` (rule R140). -/
def MemSys.tlbMatches (m : MemSys) (va : Word) : List TlbEntry :=
  m.tlb.toList.filterMap fun o => o.filter fun e => e.map.covers va

/-- Place an entry in the TLB at the cycling pointer (rule R141). -/
def MemSys.tlbInsert (m : MemSys) (e : TlbEntry) : MemSys :=
  { m with tlb := m.tlb.setIfInBounds m.tlbNext.toNat (some e), tlbNext := m.tlbNext + 1 }

/-- Every TLB entry invalid (rule R405). -/
def MemSys.tlbFlush (m : MemSys) : MemSys := { m with tlb := Vector.replicate 64 none }

/-- Every entry that translates `a` invalid: whose section, large page or small page `a` lies in (rule R406). -/
def MemSys.tlbPurge (m : MemSys) (a : Word) : MemSys :=
  { m with tlb := m.tlb.map fun o => o.filter fun e => !e.map.inPage a }

/-- The physical address of the first level descriptor (rule R103). -/
def level1Address (ttb va : Word) : Word := ttb.extractLsb' 14 18 ++ va.extractLsb' 20 12 ++ 0#2

/-- The physical address of the page table entry (rule R108). -/
def level2Address (l1 va : Word) : Word := l1.extractLsb' 10 22 ++ va.extractLsb' 12 8 ++ 0#2

/-- The entry of a section descriptor (rules R106, R124). -/
def sectionEntry (l1 va : Word) : TlbEntry :=
  { map := .sectionMap (va.extractLsb' 20 12) (l1.extractLsb' 20 12) (l1.extractLsb' 10 2),
    domain := l1.extractLsb' 5 4, cacheable := l1.getLsbD 3, bufferable := l1.getLsbD 2 }

/-- The entry of a large page descriptor under a page table descriptor (rules R109, R111, R124). -/
def largeEntry (l1 l2 va : Word) : TlbEntry :=
  { map := .large (va.extractLsb' 12 20) (l2.extractLsb' 16 16) (l2.extractLsb' 4 8),
    domain := l1.extractLsb' 5 4, cacheable := l2.getLsbD 3, bufferable := l2.getLsbD 2 }

/-- The entry of a small page descriptor under a page table descriptor (rules R109, R124). -/
def smallEntry (l1 l2 va : Word) : TlbEntry :=
  { map := .small (va.extractLsb' 12 20) (l2.extractLsb' 12 20) (l2.extractLsb' 4 8),
    domain := l1.extractLsb' 5 4, cacheable := l2.getLsbD 3, bufferable := l2.getLsbD 2 }

/-- What follows a level two fetch (rules R109, R124). -/
def levelTwo (l1 va l2 : Word) (m : MemSys) : Access TlbEntry :=
  if l2.extractLsb' 0 2 = 1#2 then .ok (largeEntry l1 l2 va) (m.tlbInsert (largeEntry l1 l2 va))
  else if l2.extractLsb' 0 2 = 2#2 then .ok (smallEntry l1 l2 va) (m.tlbInsert (smallEntry l1 l2 va))
  else .abort { status := .translationPage, domain := some (l1.extractLsb' 5 4), va := va } m

/-- What follows a level one fetch (rules R104, R124). -/
def levelOne (va l1 : Word) (m : MemSys) : Access TlbEntry :=
  if l1.extractLsb' 0 2 = 2#2 then .ok (sectionEntry l1 va) (m.tlbInsert (sectionEntry l1 va))
  else if l1.extractLsb' 0 2 = 1#2 then
    match m.externalRead .level2 (level2Address l1 va) with
    | (none, m') => .abort { status := .busLevel2, domain := some (l1.extractLsb' 5 4), va := va } m'
    | (some l2, m') => levelTwo l1 va l2 m'
  else .abort { status := .translationSection, domain := none, va := va } m

/-- The translation table walk (rules R102 to R112, R123, R124). -/
def tableWalk (cp : Cp15) (va : Word) (m : MemSys) : Access TlbEntry :=
  match m.externalRead .level1 (level1Address cp.ttb va) with
  | (none, m') => .abort { status := .busLevel1, domain := none, va := va } m'
  | (some l1, m') => levelOne va l1 m'

/-- The TLB entry for `va`: a valid one, any of them if several cover it (log entry 13), else the one a walk brings
(rules R124, R140, R141). -/
def lookupEntry (cp : Cp15) (va : Word) (m : MemSys) : Access TlbEntry :=
  match m.tlbMatches va with
  | [] => tableWalk cp va m
  | [e] => .ok e m
  | e :: es => .ok ((e :: es).getD (m.draw.1.toNat % (es.length + 1)) e) m.draw.2

/-- `Permitted(ap, priv, write)` where Control.S and Control.R are not both 1 (rule R114). -/
def permitted (ap : BitVec 2) (system rom priv write : Bool) : Bool :=
  if ap = 0#2 then (if system then priv && !write else if rom then !write else false)
  else if ap = 1#2 then priv
  else if ap = 2#2 then priv || !write
  else true

/-- `DAC[2d+1:2d]` (rules R54, R113). -/
def Cp15.domainAccess (cp : Cp15) (d : BitVec 4) : BitVec 2 := cp.dac.extractLsb' (2 * d.toNat) 2

/-- What the access checks decide. -/
inductive Verdict where
  | permitted
  | fault (s : FaultStatus)
  | reserved
  deriving DecidableEq, Repr

/-- The domain and permission checks of an access (rules R113, R114, R115, R124). -/
def checkAccess (cp : Cp15) (e : TlbEntry) (va : Word) (write priv : Bool) : Verdict :=
  if cp.domainAccess e.domain = 3#2 then .permitted
  else if cp.domainAccess e.domain = 1#2 then
    if cp.system && cp.rom then .reserved
    else if permitted (e.map.permission va) cp.system cp.rom priv write then .permitted
    else .fault (if e.map.isSection then .permissionSection else .permissionPage)
  else .fault (if e.map.isSection then .domainSection else .domainPage)

/-- What a translation delivers (rule R124): the physical address, C, B, and how the address is mapped (section or page,
and the domain), for the status of an external abort (rule R120). -/
structure Translation where
  pa : Word
  cacheable : Bool
  bufferable : Bool
  mapped : Option (Bool × BitVec 4)
  deriving DecidableEq, Repr

/-- The verdict on an entry, as the end of a translation. -/
def finishTranslation (cp : Cp15) (va : Word) (write priv : Bool) (e : TlbEntry) (m : MemSys) : Access Translation :=
  match checkAccess cp e va write priv with
  | .permitted =>
    .ok { pa := e.map.physical va, cacheable := e.cacheable, bufferable := e.bufferable,
          mapped := some (e.map.isSection, e.domain) } m
  | .fault s => .abort { status := s, domain := some e.domain, va := va } m
  | .reserved => .refuse .reservedPermission

/-- `Translate(va, kind, write, priv)` (rule R124). -/
def translate (cp : Cp15) (va : Word) (write priv : Bool) (m : MemSys) : Access Translation :=
  if cp.mmuOn then (lookupEntry cp va m).andThen (finishTranslation cp va write priv)
  else .ok { pa := va, cacheable := false, bufferable := false, mapped := none } m

/-- The fault of an external abort on a word that is neither a descriptor nor a linefetch (rules R120, R154). -/
def Translation.busFault (t : Translation) (va : Word) : MemFault :=
  match t.mapped with
  | none => { status := .busUnmapped, domain := none, va := va }
  | some (sec, d) => { status := if sec then .busOtherSection else .busOtherPage, domain := some d, va := va }

/-- The fault of an aborted linefetch: the FAR is the start of the linefetch (rules R120, R151). -/
def Translation.linefetchFault (t : Translation) (va : Word) : MemFault :=
  match t.mapped with
  | none => { status := .busUnmapped, domain := none, va := va }
  | some (sec, d) =>
    { status := if sec then .busLinefetchSection else .busLinefetchPage, domain := some d,
      va := va &&& 0xFFFFFFF0#32 }

end Sys2Proof.Machine
end

