-- ==== Sys2Proof/Machine/Cache.lean ====
section
/-! DEFINITION. The cache: lookup, linefetch, update on write, flush (file 20, sections 8 and 9). -/

namespace Sys2Proof.Machine

/-- The virtual line number `va[31:4]` (rule R160). -/
def lineNumber (va : Word) : BitVec 28 := va.extractLsb' 4 28

/-- The word of a line that `va` names. -/
def CacheLine.word (l : CacheLine) (va : Word) : Word := l.words.toList.getD (va.extractLsb' 2 2).toNat 0

/-- The cached word at `va`, if its line is present: "the Cache will always be searched" (rule R161). -/
def MemSys.cachedWord (m : MemSys) (va : Word) : Option Word :=
  (m.cache.find? fun l => l.tag == lineNumber va).map fun l => l.word va

/-- The line after a write of some lanes of the word at `va` (rule R162). -/
def CacheLine.update (l : CacheLine) (va : Word) (lanes : BitVec 4) (w : Word) : CacheLine :=
  { l with words := l.words.setIfInBounds (va.extractLsb' 2 2).toNat (mergeLanes lanes (l.word va) w) }

/-- A write updates the line if it is present, and allocates none (rule R162). -/
def MemSys.cacheUpdate (m : MemSys) (va : Word) (lanes : BitVec 4) (w : Word) : MemSys :=
  { m with cache := m.cache.map fun l => if l.tag == lineNumber va then l.update va lanes w else l }

/-- Is the place a new line takes in bank `bank` the one of `l` (rules R160, R161)? -/
def CacheLine.inPlace (l : CacheLine) (bank : BitVec 2) (tag : BitVec 28) : Bool :=
  l.bank == bank && Config.cacheIndex l.tag == Config.cacheIndex tag

/-- Put a line into the cache, "randomly placed in a cache bank" (rule R161, log entry 12): it replaces the line of its
index there. -/
def MemSys.installLine (m : MemSys) (va : Word) (words : Vector Word 4) : MemSys :=
  let bank : BitVec 2 := m.draw.1.extractLsb' 0 2
  { m.draw.2 with
    cache := { bank := bank, tag := lineNumber va, words := words } ::
      m.cache.filter fun l => !(l.tag == lineNumber va) && !l.inPlace bank (lineNumber va) }

/-- Every cache line invalid (rule R407). -/
def MemSys.cacheFlush (m : MemSys) : MemSys := { m with cache := [] }

/-- The physical address of word `k` of the line at `pa` (rule R161). -/
def lineWordAddress (pa : Word) (k : BitVec 2) : Word := pa.extractLsb' 4 28 ++ k ++ 0#2

/-- The four words a linefetch brings back, in ascending order; buffered writes have reached memory before (rule R171). -/
def MemSys.lineWords (m : MemSys) (pa : Word) : Vector Word 4 × MemSys :=
  let r0 := m.busWord (lineWordAddress pa 0)
  let r1 := r0.2.busWord (lineWordAddress pa 1)
  let r2 := r1.2.busWord (lineWordAddress pa 2)
  let r3 := r2.2.busWord (lineWordAddress pa 3)
  (#v[r0.1, r1.1, r2.1, r3.1], r3.2)

/-- Does ABORT come on any word of a linefetch? -/
def MemSys.lineAborts (m : MemSys) (pa : Word) : Bool :=
  m.asserts .linefetch (lineWordAddress pa 0) || m.asserts .linefetch (lineWordAddress pa 1) ||
    m.asserts .linefetch (lineWordAddress pa 2) || m.asserts .linefetch (lineWordAddress pa 3)

/-- A linefetch for the word at `va` (rules R161, R151): the line is installed if no word of it aborts; if the requested word
aborts the access aborts, if another does the program flow goes on. -/
def MemSys.linefetch (m : MemSys) (va : Word) (t : Translation) : Access (Word × Word) :=
  if m.asserts .linefetch (alignWord t.pa) then .abort (t.linefetchFault va) m.drainAll
  else
    let r := m.drainAll.lineWords t.pa
    let w := r.1.toList.getD (va.extractLsb' 2 2).toNat 0
    .ok (w, t.pa) (if m.lineAborts t.pa then r.2 else r.2.installLine va r.1)

end Sys2Proof.Machine
end

