-- ==== Sys2Proof/Machine/Access.lean ====
section
/-! DEFINITION. The named memory operations of rules R90 to R96: `ReadBusWord`, `MemRead`, `MemWrite`, `FetchWord`, and the
locked pair of SWP. -/

namespace Sys2Proof.Machine

/-- The size of a transfer: byte or word (rule R80). -/
inductive Size where
  | byte | word
  deriving DecidableEq, Repr

/-- The lanes a transfer at `va` moves (rule R82). -/
def Size.lanes (sz : Size) (bigEndian : Bool) (va : Word) : BitVec 4 :=
  match sz with
  | .word => 15#4
  | .byte => 1#4 <<< byteLane bigEndian va

/-- The bus word of a store: the register, or its low byte four times over (rules R92, R93). -/
def Size.busData (sz : Size) (v : Word) : Word :=
  match sz with
  | .word => v
  | .byte => repeatByte (v.extractLsb' 0 8)

/-- What a load takes from the bus word: the word rotated right by `8 * va[1:0]`, or the byte of its lane (rules R90,
R91). -/
def Size.loaded (sz : Size) (bigEndian : Bool) (va w : Word) : Word :=
  match sz with
  | .word => rotateRead va w
  | .byte => zeroExtendByte (laneByte w (byteLane bigEndian va))

/-- Is this data access an alignment fault (rule R89)? -/
def misaligned (cp : Cp15) (sz : Size) (va : Word) : Bool :=
  match sz with
  | .word => cp.alignmentOn && !isAligned va
  | .byte => false

/-- The alignment fault at `va` (rules R89, R120). -/
def alignmentFault (va : Word) : MemFault := { status := .alignment, domain := none, va := va }

/-- An external read of one word for a translated address; the cache is not written (rule R96, steps 5 and 6). -/
def uncachedRead (k : BusKind) (va : Word) (t : Translation) (m : MemSys) : Access (Word × Word) :=
  match m.externalRead k t.pa with
  | (none, m') => .abort (t.busFault va) m'
  | (some w, m') => .ok (w, t.pa) m'

/-- Steps 3 to 6 of rule R96. -/
def readTranslated (cp : Cp15) (va : Word) (t : Translation) (m : MemSys) : Access (Word × Word) :=
  match m.cachedWord va with
  | some w => .ok (w, t.pa) m
  | none => if cp.cacheOn && t.cacheable then m.linefetch va t else uncachedRead .read va t m

/-- `ReadBusWord(va, kind, priv)` without its alignment step: the bus word and the physical address (rule R96). -/
def readBusWord (cp : Cp15) (va : Word) (priv : Bool) (m : MemSys) : Access (Word × Word) :=
  (translate cp va false priv m).andThen (readTranslated cp va)

/-- A data read of one bus word, unrotated, as LDM makes it (rules R96, R343). -/
def readData (cp : Cp15) (sz : Size) (va : Word) (priv : Bool) (m : MemSys) : Access Word :=
  if misaligned cp sz va then .abort (alignmentFault va) m
  else (readBusWord cp va priv m).andThen fun r m' => .ok r.1 m'

/-- `MemRead(va, n)`, and `MemReadU` when `priv` is false (rules R90, R91, R94). -/
def memRead (cp : Cp15) (sz : Size) (va : Word) (priv : Bool) (m : MemSys) : Access Word :=
  (readData cp sz va priv m).andThen fun w m' => .ok (sz.loaded cp.bigEndian va w) m'

/-- The read of SWP: always external, never from the cache, nothing loaded into it (rules R163, R174). -/
def lockedRead (cp : Cp15) (sz : Size) (va : Word) (priv : Bool) (m : MemSys) : Access Word :=
  if misaligned cp sz va then .abort (alignmentFault va) m
  else (translate cp va false priv m).andThen fun t m1 =>
    (uncachedRead .lockedRead va t m1).andThen fun r m2 => .ok (sz.loaded cp.bigEndian va r.1) m2

/-- How a write is made: by a single store, as a later word of a block transfer, or locked (rules R167, R170). -/
inductive WriteStyle where
  | single | sequential | locked
  deriving DecidableEq, Repr

/-- The external write of a translated address: through the write buffer if Control.W and the B bit allow it and it is not
locked (rules R168, R169, R170). -/
def writeTranslated (cp : Cp15) (style : WriteStyle) (va : Word) (lanes : BitVec 4) (w : Word) (t : Translation)
    (m : MemSys) : Access Unit :=
  if cp.writeBufferOn && t.bufferable && style != .locked then
    .ok () (m.bufferedWrite (style == .sequential) t.pa lanes w)
  else m.unbufferedWrite (if style == .locked then .lockedWrite else .write) (t.busFault va) t.pa lanes w

/-- Does the slot hold the word that a store to `va`, at physical address `pa`, writes: by its virtual or its physical address
(log entry 16)?  A slot whose fetch was aborted, or met Control.S = Control.R = 1, holds no word: it keeps its mark whatever is
stored to its address.  Rule R175 speaks of the old and the new word and not of such a slot, so that is the model's choice
(DESIGN CHOICE, log entry 16). -/
def Slot.holdsWord (x : Slot) (va pa : Word) : Bool :=
  match x.got with
  | .word _ wpa => alignWord va == x.va || alignWord pa == alignWord wpa
  | .aborted => false
  | .reservedPermission => false

/-- The whole word that a fetch from `va`, at physical address `pa`, would bring now: the cached word, else what stands behind
the cache, with every earlier write (rules R161, R171). -/
def MemSys.refetch (m : MemSys) (va pa : Word) : Word × MemSys :=
  match m.cachedWord va with
  | some w => (w, m)
  | none => if m.isVolatile pa then m.draw else (m.physWord (wordIndex pa), m)

/-- A store meets the words already prefetched: each copy of the word it wrote is from now on the old word, as prefetched, or
the new word, as a fetch would bring it now, by a free bit (rule R175; D13, log entry 16). -/
def refreshSlots (va pa : Word) : List Slot → MemSys → List Slot × MemSys
  | [], m => ([], m)
  | x :: xs, m =>
    if x.holdsWord va pa then
      if m.drawBit.1 then
        let w := m.drawBit.2.refetch x.va pa
        let r := refreshSlots va pa xs w.2
        ({ x with got := .word w.1 (alignWord pa) } :: r.1, r.2)
      else
        let r := refreshSlots va pa xs m.drawBit.2
        (x :: r.1, r.2)
    else
      let r := refreshSlots va pa xs m
      (x :: r.1, r.2)

/-- The prefetched words after a store to `va`, at physical address `pa`. -/
def MemSys.refreshPipe (m : MemSys) (va pa : Word) : MemSys :=
  { (refreshSlots va pa m.pipe m).2 with pipe := (refreshSlots va pa m.pipe m).1 }

/-- `MemWrite(va, n, v)`, and `MemWriteU` when `priv` is false: alignment check, translation, cache update, external write,
and then the words already prefetched (rules R92, R93, R94, R96, R162, R175).  An abort leaves no prefetched word that could
execute, because its exception empties the pipeline. -/
def memWrite (cp : Cp15) (style : WriteStyle) (sz : Size) (va : Word) (priv : Bool) (v : Word) (m : MemSys) :
    Access Unit :=
  if misaligned cp sz va then .abort (alignmentFault va) m
  else (translate cp va true priv m).andThen fun t m1 =>
    (writeTranslated cp style va (sz.lanes cp.bigEndian va) (sz.busData v) t
      (m1.cacheUpdate va (sz.lanes cp.bigEndian va) (sz.busData v))).andThen fun _ m2 => .ok () (m2.refreshPipe va t.pa)

/-- `FetchWord(va)` (rule R95): the word, or a mark; FSR and FAR are not touched (rule R121).  Where the permission check meets
Control.S = Control.R = 1, which rule R114 leaves without a meaning, the word is marked and the memory system is the one from
before the walk: what the walk put into the TLB (rule R124 places the entry before the check), the TLB pointer, the writes it
drained and the free values it drew are dropped.  That is the model's choice (DESIGN CHOICE, log entry 49). -/
def fetchWord (cp : Cp15) (va : Word) (priv : Bool) (m : MemSys) : Fetched × MemSys :=
  match readBusWord cp va priv m with
  | .ok r m' => (.word r.1 r.2, m')
  | .abort _ m' => (.aborted, m')
  | .refuse _ => (.reservedPermission, m)

end Sys2Proof.Machine
end

