-- ==== Sys2Proof/Machine/Flags.lean ====
section
/-! DEFINITION. The PSR fields, the condition test and the arithmetic that sets the flags (rules R35 to R41, R230, R250,
R251). -/

namespace Sys2Proof.Machine

/-- N, Z, C and V (rule R35). -/
structure Flags where
  n : Bool
  z : Bool
  c : Bool
  v : Bool
  deriving DecidableEq, Repr

/-- The flags of a PSR: bits 31 to 28 (rule R35). -/
def psrFlags (p : Word) : Flags := ⟨p.getLsbD 31, p.getLsbD 30, p.getLsbD 29, p.getLsbD 28⟩

/-- Four flags as bits [31:28]. -/
def Flags.bits (f : Flags) : BitVec 4 :=
  BitVec.ofBool f.n ++ BitVec.ofBool f.z ++ BitVec.ofBool f.c ++ BitVec.ofBool f.v

/-- A PSR with its bits [31:28] replaced and [27:0] kept (rules R39, R294). -/
def withFlagBits (p : Word) (top : BitVec 4) : Word := top ++ p.extractLsb' 0 28

/-- A PSR with its flags replaced. -/
def withFlags (p : Word) (f : Flags) : Word := withFlagBits p f.bits

/-- The I bit (rule R35). -/
def psrI (p : Word) : Bool := p.getLsbD 7
/-- The F bit (rule R35). -/
def psrF (p : Word) : Bool := p.getLsbD 6

/-- The mode numbers of rule R22. -/
def Mode.bits : Mode → BitVec 5
  | .usr => 0b10000#5 | .fiq => 0b10001#5 | .irq => 0b10010#5 | .svc => 0b10011#5 | .abt => 0b10111#5
  | .und => 0b11011#5

/-- The mode a mode number names: six values and no other (rules R22, R36). -/
def Mode.ofBits (m : BitVec 5) : Option Mode :=
  if m = 0b10000#5 then some .usr
  else if m = 0b10001#5 then some .fiq
  else if m = 0b10010#5 then some .irq
  else if m = 0b10011#5 then some .svc
  else if m = 0b10111#5 then some .abt
  else if m = 0b11011#5 then some .und
  else none

/-- The mode of a PSR: M[4:0] (rules R35, R36). -/
def psrMode (p : Word) : Option Mode := Mode.ofBits (p.extractLsb' 0 5)

/-- The CPSR an exception entry leaves: the new mode, I set, F set if `setF`, every other bit kept (rule R431). -/
def entryPsr (p : Word) (md : Mode) (setF : Bool) : Word :=
  p.extractLsb' 8 24 ++ 1#1 ++ BitVec.ofBool (setF || psrF p) ++ p.extractLsb' 5 1 ++ md.bits

/-- `ConditionPassed(cond)` (rule R230). -/
def conditionHolds (c : Cond) (f : Flags) : Bool :=
  match c with
  | .eq => f.z
  | .ne => !f.z
  | .cs => f.c
  | .cc => !f.c
  | .mi => f.n
  | .pl => !f.n
  | .vs => f.v
  | .vc => !f.v
  | .hi => f.c && !f.z
  | .ls => !f.c || f.z
  | .ge => f.n == f.v
  | .lt => f.n != f.v
  | .gt => !f.z && f.n == f.v
  | .le => f.z || f.n != f.v
  | .al => true
  | .nv => false

/-- What an ALU operation yields: the value and the flags it would set. -/
structure AluResult where
  value : Word
  flags : Flags
  deriving DecidableEq, Repr

/-- The unsigned sum of `AddWithCarry`, in unbounded integers (rule R251). -/
def unsignedSum (a b : Word) (cin : Bool) : Nat := a.toNat + b.toNat + cin.toNat

/-- The signed sum of `AddWithCarry`, in unbounded integers (rule R251). -/
def signedSum (a b : Word) (cin : Bool) : Int := a.toInt + b.toInt + cin.toNat

/-- `AddWithCarry(a, b, cin)` with the N and Z that follow from the result (rule R251). -/
def addWithCarry (a b : Word) (cin : Bool) : AluResult :=
  let result := BitVec.ofNat 32 (unsignedSum a b cin)
  { value := result,
    flags := { n := result.getLsbD 31, z := result == 0, c := decide (2 ^ 32 ≤ unsignedSum a b cin),
               v := decide (signedSum a b cin ≠ result.toInt) } }

/-- The result of a logical operation: N and Z from it, C the shifter carry, V kept (rule R250). -/
def logicalResult (result : Word) (shc : Bool) (old : Flags) : AluResult :=
  { value := result, flags := { n := result.getLsbD 31, z := result == 0, c := shc, v := old.v } }

end Sys2Proof.Machine
end

