-- ==== Sys2Proof/Machine/Ops.lean ====
section
/-! DEFINITION. The named operations over registers and PSRs, the end of an instruction, taking an exception and returning
from one, and the gate every instruction passes (files 10 and 60). -/

namespace Sys2Proof.Machine

/-- What a step or a meaning answers. -/
abbrev Result := Host.Outcome State Fault Refusal

/-- The position of a register in `State.regs`. -/
def PReg.idx (p : PReg) : Nat :=
  match p with
  | .r0 => 0 | .r1 => 1 | .r2 => 2 | .r3 => 3 | .r4 => 4 | .r5 => 5 | .r6 => 6 | .r7 => 7 | .r8 => 8 | .r9 => 9
  | .r10 => 10 | .r11 => 11 | .r12 => 12 | .r13Usr => 13 | .r14Usr => 14 | .r8Fiq => 15 | .r9Fiq => 16
  | .r10Fiq => 17 | .r11Fiq => 18 | .r12Fiq => 19 | .r13Fiq => 20 | .r14Fiq => 21 | .r13Irq => 22 | .r14Irq => 23
  | .r13Svc => 24 | .r14Svc => 25 | .r13Abt => 26 | .r14Abt => 27 | .r13Und => 28 | .r14Und => 29

/-- A physical register. -/
def State.preg (s : State) (p : PReg) : Word := s.regs.toList.getD p.idx 0

/-- A physical register replaced. -/
def State.setPreg (s : State) (p : PReg) (v : Word) : State := { s with regs := s.regs.setIfInBounds p.idx v }

/-- `Rbank[m][n]` for n = 13 (rule R24). -/
def Mode.r13 : Mode → PReg
  | .usr => .r13Usr | .fiq => .r13Fiq | .irq => .r13Irq | .svc => .r13Svc | .abt => .r13Abt | .und => .r13Und

/-- `Rbank[m][n]` for n = 14, the link register (rules R23, R24). -/
def Mode.r14 : Mode → PReg
  | .usr => .r14Usr | .fiq => .r14Fiq | .irq => .r14Irq | .svc => .r14Svc | .abt => .r14Abt | .und => .r14Und

/-- `Rbank[m][n]` (rule R24): the physical register, none for n = 15. -/
def Mode.bank (md : Mode) (n : RegNo) : Option PReg :=
  match n.toNat with
  | 0 => some .r0
  | 1 => some .r1
  | 2 => some .r2
  | 3 => some .r3
  | 4 => some .r4
  | 5 => some .r5
  | 6 => some .r6
  | 7 => some .r7
  | 8 => some (if md = .fiq then .r8Fiq else .r8)
  | 9 => some (if md = .fiq then .r9Fiq else .r9)
  | 10 => some (if md = .fiq then .r10Fiq else .r10)
  | 11 => some (if md = .fiq then .r11Fiq else .r11)
  | 12 => some (if md = .fiq then .r12Fiq else .r12)
  | 13 => some md.r13
  | 14 => some md.r14
  | _ => none

/-- Is register `n` banked in mode `md` (rule R512): R13 and R14 of the privileged modes, R8 to R14 of FIQ mode? -/
def Mode.banked (md : Mode) (n : RegNo) : Bool :=
  match md with
  | .usr => false
  | .fiq => decide (8 ≤ n.toNat)
  | .irq | .svc | .abt | .und => decide (13 ≤ n.toNat)

/-- The value read from register `n` of bank `md`; R15 reads as `ia + ahead` (rules R24, R30, R31).  Straight after a
User-bank LDM a banked register gives any value (rules R350, R512, U24; log entry 33). -/
def State.readAs (s : State) (cur md : Mode) (n : RegNo) (ahead : Word) : Word :=
  match md.bank n with
  | none => s.pc + ahead
  | some p => if s.bankHazard && cur.banked n then Config.freeBanked s.sys.free n else s.preg p

/-- `R[n]` as a value, in the current mode `md` (rules R13, R24). -/
def State.read (s : State) (md : Mode) (n : RegNo) (ahead : Word) : Word := s.readAs md md n ahead

/-- A write of register `n` of bank `md`, for n up to 14 (rule R24); R15 is written by `State.jump` alone. -/
def State.write (s : State) (md : Mode) (n : RegNo) (v : Word) : State :=
  match md.bank n with
  | none => s
  | some p => s.setPreg p v

/-- The mode of the CPSR (rule R36). -/
def State.mode (s : State) : Option Mode := psrMode s.cpsr

/-- `SPSR_<md>`; none in User mode (rule R38). -/
def State.spsr (s : State) (md : Mode) : Option Word :=
  match md with
  | .usr => none
  | .fiq => some s.spsrFiq
  | .irq => some s.spsrIrq
  | .svc => some s.spsrSvc
  | .abt => some s.spsrAbt
  | .und => some s.spsrUnd

/-- `SPSR_<md> <- v`; nothing in User mode (rule R38). -/
def State.setSpsr (s : State) (md : Mode) (v : Word) : State :=
  match md with
  | .usr => s
  | .fiq => { s with spsrFiq := v }
  | .irq => { s with spsrIrq := v }
  | .svc => { s with spsrSvc := v }
  | .abt => { s with spsrAbt := v }
  | .und => { s with spsrUnd := v }

/-- `Privileged()` (rule R470). -/
def Mode.privileged (md : Mode) : Bool := !decide (md = .usr)

/-- The CPSR replaced. -/
def State.setCpsr (s : State) (v : Word) : State := { s with cpsr := v }

/-- The flags of the CPSR (rule R40). -/
def State.flags (s : State) : Flags := psrFlags s.cpsr

/-- The flags of the CPSR replaced. -/
def State.setFlags (s : State) (f : Flags) : State := s.setCpsr (withFlags s.cpsr f)

/-- The flags of the CPSR replaced if `on` (the S bit, rules R250, R251). -/
def State.setFlagsIf (s : State) (on : Bool) (f : Flags) : State := if on then s.setFlags f else s

/-- The memory system replaced. -/
def State.withSys (s : State) (m : MemSys) : State := { s with sys := m }

/-- The next free value (rule R13), and the state from which the one after it is drawn. -/
def State.draw (s : State) : Word × State := (s.sys.draw.1, s.withSys s.sys.draw.2)

/-- The bank hazard of the instruction just executed ends; the values it gave are used up (rule R512). -/
def State.clearHazard (s : State) : State :=
  if s.bankHazard then { s with bankHazard := false, sys := { s.sys with free := s.sys.free + 1 } } else s

/-- The end of an instruction that does not write R15: on to `ia + 4`, the words prefetched stay (rules R33, R63). -/
def State.advance (s : State) : State :=
  { s.clearHazard with
    pc := s.pc + 4#32, sys := { s.clearHazard.sys with pipe := s.clearHazard.sys.pipe.drop 1 } }

/-- `pc <- v`: bits [1:0] are dropped and the words prefetched are discarded (rule R32; D4). -/
def State.jump (s : State) (v : Word) : State :=
  { s.clearHazard with pc := alignWord v, sys := { s.clearHazard.sys with pipe := [] } }

/-- The exceptions other than Reset (rule R430). -/
inductive Exception where
  | undefined | softwareInterrupt | prefetchAbort | dataAbort | irq | fiq
  deriving DecidableEq, Repr

/-- The mode on entry (rule R430). -/
def Exception.mode : Exception → Mode
  | .undefined => .und | .softwareInterrupt => .svc | .prefetchAbort => .abt | .dataAbort => .abt | .irq => .irq
  | .fiq => .fiq

/-- The vector address (rule R430). -/
def Exception.vector : Exception → Word
  | .undefined => 0x04#32 | .softwareInterrupt => 0x08#32 | .prefetchAbort => 0x0C#32 | .dataAbort => 0x10#32
  | .irq => 0x18#32 | .fiq => 0x1C#32

/-- What R14 receives, counted from the instruction that caused the exception or that would have been next (rule R439). -/
def Exception.returnOffset : Exception → Word
  | .undefined => 4#32 | .softwareInterrupt => 4#32 | .prefetchAbort => 4#32 | .dataAbort => 8#32 | .irq => 4#32
  | .fiq => 4#32

/-- Does the entry set F (rule R431)? -/
def Exception.setsF : Exception → Bool
  | .fiq => true
  | .undefined | .softwareInterrupt | .prefetchAbort | .dataAbort | .irq => false

/-- Taking an exception (rules R431, R439): R14 and the SPSR of the new mode saved, the mode, I and F of the CPSR changed, the
pc at the vector and the words prefetched discarded. -/
def State.takeException (s : State) (e : Exception) : State :=
  (((s.setPreg e.mode.r14 (s.pc + e.returnOffset)).setSpsr e.mode s.cpsr).setCpsr
    (entryPsr s.cpsr e.mode e.setsF)).jump e.vector

/-- The return from an exception: the SPSR to the CPSR, all 32 bits, and the pc (rules R252, R346, R460). -/
def State.returnFrom (s : State) (spsr target : Word) : State := (s.setCpsr spsr).jump target

/-- The code FS[3:0] of a fault, where the spec fixes it: bit 1 of an alignment fault is open (rule R120), and so is all of an
external abort with the MMU off (rule R154).  `x` fills what is open. -/
def FaultStatus.code (f : FaultStatus) (x : Word) : BitVec 4 :=
  match f with
  | .alignment => 0b00#2 ++ x.extractLsb' 0 1 ++ 1#1
  | .busLevel1 => 0b1100#4
  | .busLevel2 => 0b1110#4
  | .translationSection => 0b0101#4
  | .translationPage => 0b0111#4
  | .domainSection => 0b1001#4
  | .domainPage => 0b1011#4
  | .permissionSection => 0b1101#4
  | .permissionPage => 0b1111#4
  | .busLinefetchSection => 0b0100#4
  | .busLinefetchPage => 0b0110#4
  | .busOtherSection => 0b1000#4
  | .busOtherPage => 0b1010#4
  | .busUnmapped => x.extractLsb' 0 4

/-- Is the fault an external abort with the MMU off, which leaves FSR and FAR with any value (rule R154, U21)? -/
def FaultStatus.isUnmapped : FaultStatus → Bool
  | .busUnmapped => true
  | .alignment | .busLevel1 | .busLevel2 | .translationSection | .translationPage | .domainSection | .domainPage
  | .permissionSection | .permissionPage | .busLinefetchSection | .busLinefetchPage | .busOtherSection
  | .busOtherPage => false

/-- FSR and FAR after a data fault (rules R120, R154).  `x` and `y` are free values for what the spec leaves open. -/
def Cp15.recordFault (cp : Cp15) (f : MemFault) (x y : Word) : Cp15 :=
  { cp with
    fsrStatus := f.status.code x,
    fsrDomain := f.domain.getD (x.extractLsb' 4 4),
    far := if f.status.isUnmapped then y else f.va }

/-- The data abort of a transfer that faulted (rules R120, R435): FSR and FAR, then the entry. -/
def State.dataAbort (s : State) (f : MemFault) : State :=
  { s.draw.2.draw.2 with cp15 := s.cp15.recordFault f s.draw.1 s.draw.2.draw.1 }.takeException .dataAbort

/-- The gate of every instruction and every step but Reset: in a legal mode (rule R37), in the 32-bit configuration
(rule R6; D1). -/
def State.gate (s : State) (body : Mode → Result) : Result :=
  match s.mode with
  | none => .fault .unrecoverableMode
  | some md => if s.cp15.prog32 && s.cp15.data32 then body md else .refused .configuration26

/-- An instruction: behind the gate, nothing but the advance if its condition fails, else its effect (rules R14, R231). -/
def conditionally (c : Cond) (s : State) (body : Mode → Result) : Result :=
  s.gate fun md => if conditionHolds c s.flags then body md else .next s.advance

end Sys2Proof.Machine
end

