-- ==== Sys2Proof/Machine/Operands.lean ====
section
/-! DEFINITION. The operand forms: the shifter of data processing (rules R241 to R249), the offset of a single transfer
(rule R312), the register list of a block transfer (rule R341). -/

namespace Sys2Proof.Machine

/-- A shifter's output: the operand and the carry (rule R241). -/
structure Shifted where
  value : Word
  carry : Bool
  deriving DecidableEq, Repr

/-- A shift of `m` by an amount in the instruction (rules R242 to R246): amount 0 means LSL #0, LSR #32, ASR #32 or RRX. -/
def shiftByImmediate (ty : ShiftType) (amt : BitVec 5) (m : Word) (c : Bool) : Shifted :=
  match ty with
  | .lsl => if amt = 0#5 then ⟨m, c⟩ else ⟨m <<< amt.toNat, m.getLsbD (32 - amt.toNat)⟩
  | .lsr => if amt = 0#5 then ⟨0, m.getLsbD 31⟩ else ⟨m >>> amt.toNat, m.getLsbD (amt.toNat - 1)⟩
  | .asr =>
    if amt = 0#5 then ⟨m.sshiftRight 31, m.getLsbD 31⟩ else ⟨m.sshiftRight amt.toNat, m.getLsbD (amt.toNat - 1)⟩
  | .ror =>
    if amt = 0#5 then ⟨BitVec.ofBool c ++ m.extractLsb' 1 31, m.getLsbD 0⟩
    else ⟨m.rotateRight amt.toNat, m.getLsbD (amt.toNat - 1)⟩

/-- A shift of `m` by `n`, the bottom byte of a register (rule R248). -/
def shiftByRegister (ty : ShiftType) (n : Nat) (m : Word) (c : Bool) : Shifted :=
  if n = 0 then ⟨m, c⟩
  else
    match ty with
    | .lsl => if n ≤ 32 then ⟨m <<< n, m.getLsbD (32 - n)⟩ else ⟨0, false⟩
    | .lsr => if n ≤ 32 then ⟨m >>> n, m.getLsbD (n - 1)⟩ else ⟨0, false⟩
    | .asr => if n < 32 then ⟨m.sshiftRight n, m.getLsbD (n - 1)⟩ else ⟨m.sshiftRight 31, m.getLsbD 31⟩
    | .ror => ⟨m.rotateRight (n % 32), m.getLsbD ((n - 1) % 32)⟩

/-- The rotated immediate and its carry (rule R247; D16). -/
def immediateOperand (rot : BitVec 4) (imm : BitVec 8) (c : Bool) : Shifted :=
  ⟨rotatedImmediate rot imm, if rot = 0#4 then c else (rotatedImmediate rot imm).getLsbD 31⟩

/-- Operand 2 of a data processing instruction (rule R185). -/
inductive Operand2 where
  | imm (rot : BitVec 4) (imm : BitVec 8)
  | shImm (amt : BitVec 5) (ty : ShiftType) (rm : RegNo)
  | shReg (rs : RegNo) (ty : ShiftType) (rm : RegNo)
  deriving DecidableEq, Repr

/-- How far ahead R15 reads in the instruction: 12 with a register-specified shift, else 8 (rules R31, R249). -/
def Operand2.ahead : Operand2 → Word
  | .imm .. => 8#32
  | .shImm .. => 8#32
  | .shReg .. => 12#32

/-- Is R15 the shift amount register (rule R248, U6)? -/
def Operand2.amountIsR15 : Operand2 → Bool
  | .imm .. => false
  | .shImm .. => false
  | .shReg rs _ _ => rs == 15#4

/-- `ShifterOperand(instr)` (rule R241). -/
def Operand2.value (o : Operand2) (s : State) (md : Mode) : Shifted :=
  match o with
  | .imm rot v => immediateOperand rot v s.flags.c
  | .shImm amt ty rm => shiftByImmediate ty amt (s.read md rm 8#32) s.flags.c
  | .shReg rs ty rm =>
    shiftByRegister ty ((s.read md rs 12#32).extractLsb' 0 8).toNat (s.read md rm 12#32) s.flags.c

/-- The offset of a single data transfer (rule R189). -/
inductive Offset where
  | imm (off : BitVec 12)
  | reg (amt : BitVec 5) (ty : ShiftType) (rm : RegNo)
  deriving DecidableEq, Repr

/-- The offset's value; the shifter carry is discarded (rule R312). -/
def Offset.value (o : Offset) (s : State) (md : Mode) : Word :=
  match o with
  | .imm off => off.setWidth 32
  | .reg amt ty rm => (shiftByImmediate ty amt (s.read md rm 8#32) s.flags.c).value

/-- The indexing of a single data transfer (rules R189, R312): pre-indexed with or without write-back, post-indexed, or
post-indexed with the transfer forced non-privileged. -/
inductive Indexing where
  | pre (w : Bool)
  | post
  | postUser
  deriving DecidableEq, Repr

/-- `wb`: base write-back happens (rule R312). -/
def Indexing.writesBack : Indexing → Bool
  | .pre w => w
  | .post => true
  | .postUser => true

/-- Is the address the modified base (P = 1, rule R312)? -/
def Indexing.isPre : Indexing → Bool
  | .pre _ => true
  | .post => false
  | .postUser => false

/-- The privilege of the transfer: the mode's, or none for the T forms (rules R94, R318). -/
def Indexing.privilege (ix : Indexing) (md : Mode) : Bool :=
  match ix with
  | .pre _ => md.privileged
  | .post => md.privileged
  | .postUser => false

/-- `modified`: base plus or minus offset (rule R312). -/
def modifiedBase (s : State) (md : Mode) (up : Bool) (rn : RegNo) (off : Offset) : Word :=
  if up then s.read md rn 8#32 + off.value s md else s.read md rn 8#32 - off.value s md

/-- `addr`: the address of the transfer (rule R312). -/
def transferAddress (s : State) (md : Mode) (ix : Indexing) (up : Bool) (rn : RegNo) (off : Offset) : Word :=
  if ix.isPre then modifiedBase s md up rn off else s.read md rn 8#32

/-- The operand combinations of a single data transfer that the spec leaves unpredictable (rules R322, R323, U9). -/
def transferRestriction (ix : Indexing) (rn : RegNo) (off : Offset) : Option Refusal :=
  if ix.writesBack && rn == 15#4 then some .writeBackR15
  else
    match off with
    | .imm _ => none
    | .reg _ _ rm =>
      if rm == 15#4 then some .offsetR15
      else if !ix.isPre && rm == rn then some .postIndexByBase
      else none

/-- The register numbers of a list, lowest first (rules R191, R341). -/
def listRegisters (list : BitVec 16) : List RegNo :=
  [0#4, 1#4, 2#4, 3#4, 4#4, 5#4, 6#4, 7#4, 8#4, 9#4, 10#4, 11#4, 12#4, 13#4, 14#4, 15#4].filter
    fun n => list.getLsbD n.toNat

/-- `n`: the number of registers in the list (rule R341). -/
def listCount (list : BitVec 16) : Nat := (listRegisters list).length

/-- `4 * n` as a word. -/
def listBytes (list : BitVec 16) : Word := BitVec.ofNat 32 (4 * listCount list)

/-- `start`: the lowest transfer address (rule R341). -/
def blockStart (pre up : Bool) (base : Word) (list : BitVec 16) : Word :=
  if up then (if pre then base + 4#32 else base)
  else (if pre then base - listBytes list else base - listBytes list + 4#32)

/-- `final`: the modified base (rule R341). -/
def blockFinal (up : Bool) (base : Word) (list : BitVec 16) : Word :=
  if up then base + listBytes list else base - listBytes list

/-- The addresses of `n` transfers from `a` up (rule R341). -/
def blockAddresses (a : Word) : Nat → List Word
  | 0 => []
  | n + 1 => a :: blockAddresses (a + 4#32) n

/-- The operand combinations of a block transfer that the spec leaves unpredictable whatever the S bit (rule R353, U10). -/
def blockRestriction (rn : RegNo) (list : BitVec 16) : Option Refusal :=
  if rn == 15#4 then some .blockBaseR15
  else if list == 0#16 then some .emptyRegisterList
  else none

/-- `target` of a branch (rule R232). -/
def branchTarget (s : State) (off : BitVec 24) : Word :=
  s.pc + 8#32 + ((off ++ 0#2 : BitVec 26).signExtend 32)

end Sys2Proof.Machine
end

