-- ==== Sys2Proof/Machine/BlockTransfer.lean ====
section
/-! DEFINITION. Block data transfer (file 45): the transfers, the register writes, then one definition per instruction. -/

namespace Sys2Proof.Machine

/-- How the reads of an LDM end: all words, or the words before the transfer that aborted (rule R355). -/
inductive BlockRead where
  | done (ws : List Word) (m : MemSys)
  | aborted (ws : List Word) (f : MemFault) (m : MemSys)
  | refuse (r : Refusal)
  deriving DecidableEq, Repr

/-- A word read before the others. -/
def BlockRead.after (w : Word) : BlockRead → BlockRead
  | .done ws m => .done (w :: ws) m
  | .aborted ws f m => .aborted (w :: ws) f m
  | .refuse r => .refuse r

/-- The reads of an LDM, unrotated, in ascending order, none after one that aborts (rules R343, R344, R355; D7). -/
def readBlock (cp : Cp15) (priv : Bool) : List Word → MemSys → BlockRead
  | [], m => .done [] m
  | a :: as, m =>
    match readData cp .word a priv m with
    | .refuse r => .refuse r
    | .abort f m' => .aborted [] f m'
    | .ok w m' => (readBlock cp priv as m').after w

/-- The transfers of an STM after one that aborted: each is made or not, independently (rule R354; D7, log entry 19). -/
def writeRest (cp : Cp15) (priv : Bool) (f : MemFault) : List (Word × Word) → MemSys → Access Unit
  | [], m => .abort f m
  | (a, v) :: rest, m =>
    if m.drawBit.1 then
      match memWrite cp .sequential .word a priv v m.drawBit.2 with
      | .refuse r => .refuse r
      | .abort _ m' => writeRest cp priv f rest m'
      | .ok _ m' => writeRest cp priv f rest m'
    else writeRest cp priv f rest m.drawBit.2

/-- The writes of an STM in ascending order (rules R347, R354). -/
def writeBlock (cp : Cp15) (priv : Bool) (style : WriteStyle) : List (Word × Word) → MemSys → Access Unit
  | [], m => .ok () m
  | (a, v) :: rest, m =>
    match memWrite cp style .word a priv v m with
    | .refuse r => .refuse r
    | .abort f m' => writeRest cp priv f rest m'
    | .ok _ m' => writeBlock cp priv .sequential rest m'

/-- The loaded words to the registers of bank `md`, R15 left out (rules R344, R350). -/
def writeRegisters (s : State) (md : Mode) : List RegNo → List Word → State
  | [], _ => s
  | _ :: _, [] => s
  | r :: rs, w :: ws => writeRegisters (s.write md r w) md rs ws

/-- The addresses of the transfers of a list (rule R341). -/
def listAddresses (s : State) (md : Mode) (pre up : Bool) (rn : RegNo) (list : BitVec 16) : List Word :=
  blockAddresses (blockStart pre up (s.read md rn 8#32) list) (listCount list)

/-- What register `n` of bank `md` holds; the pc for R15. -/
def State.bankValue (s : State) (md : Mode) (n : RegNo) : Word :=
  match md.bank n with
  | none => s.pc
  | some p => s.preg p

/-- The base register after an aborted LDM: `final` with write-back, else what it held (rules R352, R355). -/
def blockBase (s : State) (md : Mode) (up w : Bool) (rn : RegNo) (list : BitVec 16) : Word :=
  if w then blockFinal up (s.read md rn 8#32) list else s.bankValue md rn

/-- The base written back if W = 1 (rule R352). -/
def blockWriteBack (s0 s : State) (md : Mode) (up w : Bool) (rn : RegNo) (list : BitVec 16) : State :=
  if w then s.write md rn (blockFinal up (s0.read md rn 8#32) list) else s

/-- An aborted LDM: the registers of the words that came before, the base restored, the data abort (rule R355).  A User-bank
LDM that aborts raises no bank hazard for the handler's first instruction, even if it loaded some User registers: rules R350
and R512 do not say, and that is the model's choice (DESIGN CHOICE, log entry 50). -/
def abortedLoad (s : State) (md dest : Mode) (up w : Bool) (rn : RegNo) (list : BitVec 16) (ws : List Word)
    (f : MemFault) (m : MemSys) : State :=
  ((writeRegisters (s.withSys m) dest (listRegisters list) ws).write md rn (blockBase s md up w rn list)).dataAbort f

/-- The end of an LDM without the S bit: the registers, then the pc if R15 was loaded (rules R344, R345). -/
def loadFinish (list : BitVec 16) (ws : List Word) (s : State) : State :=
  if list.getLsbD 15 then s.jump (ws.getLastD 0) else s.advance

/-- LDM, S = 0 (rules R344, R345, R353, R355). -/
def loadBlock (c : Cond) (pre up w : Bool) (rn : RegNo) (list : BitVec 16) (s : State) : Result :=
  conditionally c s fun md =>
    match blockRestriction rn list with
    | some r => .refused r
    | none =>
      match readBlock s.cp15 md.privileged (listAddresses s md pre up rn list) s.sys with
      | .refuse r => .refused r
      | .aborted ws f m => .next (abortedLoad s md md up w rn list ws f m)
      | .done ws m =>
        .next (loadFinish list ws
          (writeRegisters (blockWriteBack s (s.withSys m) md up w rn list) md (listRegisters list) ws))

/-- LDM, S = 1 with R15: the SPSR to the CPSR as R15 is loaded (rules R346, R349, R353, R355). -/
def loadBlockRestore (c : Cond) (pre up w : Bool) (rn : RegNo) (list : BitVec 16) (s : State) : Result :=
  conditionally c s fun md =>
    match blockRestriction rn list with
    | some r => .refused r
    | none =>
      match s.spsr md with
      | none => .refused .blockSBitInUserMode
      | some p =>
        match readBlock s.cp15 md.privileged (listAddresses s md pre up rn list) s.sys with
        | .refuse r => .refused r
        | .aborted ws f m => .next (abortedLoad s md md up w rn list ws f m)
        | .done ws m =>
          .next ((writeRegisters (blockWriteBack s (s.withSys m) md up w rn list) md (listRegisters list)
            ws).returnFrom p (ws.getLastD 0))

/-- The instruction after a User-bank LDM must not read a banked register (rules R350, R512). -/
def State.raiseHazard (s : State) : State := { s with bankHazard := true }

/-- LDM, S = 1 without R15: the User bank (rules R349, R350, R353, R355). -/
def loadBlockUser (c : Cond) (pre up w : Bool) (rn : RegNo) (list : BitVec 16) (s : State) : Result :=
  conditionally c s fun md =>
    match blockRestriction rn list with
    | some r => .refused r
    | none =>
      if !md.privileged then .refused .blockSBitInUserMode
      else if w then .refused .userBankWriteBack
      else
        match readBlock s.cp15 md.privileged (listAddresses s md pre up rn list) s.sys with
        | .refuse r => .refused r
        | .aborted ws f m => .next (abortedLoad s md .usr up w rn list ws f m)
        | .done ws m => .next (writeRegisters (s.withSys m) .usr (listRegisters list) ws).advance.raiseHazard

/-- The value an STM stores for register `r` of bank `from`: `ia + 12` for R15; the modified base for a base that is not first
in the list, with write-back (rules R347, R348, R351, R352). -/
def blockStored (s : State) (md bank : Mode) (up w : Bool) (rn : RegNo) (list : BitVec 16) (r : RegNo) : Word :=
  if w && r == rn && (listRegisters list).head? != some r then blockFinal up (s.read md rn 8#32) list
  else s.readAs md bank r 12#32

/-- The transfers of an STM: each address with the word stored there. -/
def blockTransfers (s : State) (md bank : Mode) (pre up w : Bool) (rn : RegNo) (list : BitVec 16) :
    List (Word × Word) :=
  (listAddresses s md pre up rn list).zip ((listRegisters list).map (blockStored s md bank up w rn list))

/-- The end of an STM (rules R347, R354). -/
def storeFinish (s : State) (md : Mode) (up w : Bool) (rn : RegNo) (list : BitVec 16) (x : Access Unit) : Result :=
  match x with
  | .refuse r => .refused r
  | .abort f m => .next ((blockWriteBack s (s.withSys m) md up w rn list).dataAbort f)
  | .ok _ m => .next (blockWriteBack s (s.withSys m) md up w rn list).advance

/-- STM, S = 0 (rules R347, R353, R354). -/
def storeBlock (c : Cond) (pre up w : Bool) (rn : RegNo) (list : BitVec 16) (s : State) : Result :=
  conditionally c s fun md =>
    match blockRestriction rn list with
    | some r => .refused r
    | none =>
      storeFinish s md up w rn list
        (writeBlock s.cp15 md.privileged .single (blockTransfers s md md pre up w rn list) s.sys)

/-- STM, S = 1: the User bank (rules R349, R351, R353, R354). -/
def storeBlockUser (c : Cond) (pre up w : Bool) (rn : RegNo) (list : BitVec 16) (s : State) : Result :=
  conditionally c s fun md =>
    match blockRestriction rn list with
    | some r => .refused r
    | none =>
      if !md.privileged then .refused .blockSBitInUserMode
      else if w then .refused .userBankWriteBack
      else
        storeFinish s md up w rn list
          (writeBlock s.cp15 md.privileged .single (blockTransfers s md .usr pre up w rn list) s.sys)

/-! ## The instructions -/

/-- LDM, S = 0, R15 not in the list (R344). -/
def execLdm (c : Cond) (pre up w : Bool) (rn : RegNo) (list : BitVec 15) (st : State) : Result :=
  loadBlock c pre up w rn (0#1 ++ list) st

/-- LDM, S = 0, R15 in the list (R345). -/
def execLdmPc (c : Cond) (pre up w : Bool) (rn : RegNo) (list : BitVec 15) (st : State) : Result :=
  loadBlock c pre up w rn (1#1 ++ list) st

/-- LDM, S = 1, R15 in the list: the SPSR to the CPSR (R346). -/
def execLdmPcRestore (c : Cond) (pre up w : Bool) (rn : RegNo) (list : BitVec 15) (st : State) : Result :=
  loadBlockRestore c pre up w rn (1#1 ++ list) st

/-- LDM, S = 1, R15 not in the list: User bank (R350). -/
def execLdmUser (c : Cond) (pre up w : Bool) (rn : RegNo) (list : BitVec 15) (st : State) : Result :=
  loadBlockUser c pre up w rn (0#1 ++ list) st

/-- STM, S = 0 (R347). -/
def execStm (c : Cond) (pre up w : Bool) (rn : RegNo) (list : BitVec 16) (st : State) : Result :=
  storeBlock c pre up w rn list st

/-- STM, S = 1: User bank (R351). -/
def execStmUser (c : Cond) (pre up w : Bool) (rn : RegNo) (list : BitVec 16) (st : State) : Result :=
  storeBlockUser c pre up w rn list st

end Sys2Proof.Machine
end

