-- ==== Sys2Proof/Machine/Branch.lean ====
section
/-! DEFINITION. Branch and branch with link (file 40). -/

namespace Sys2Proof.Machine

/-- B (rules R232, R233). -/
def branch (c : Cond) (off : BitVec 24) (s : State) : Result :=
  conditionally c s fun _ => .next (s.jump (branchTarget s off))

/-- BL (rules R232, R234). -/
def branchLink (c : Cond) (off : BitVec 24) (s : State) : Result :=
  conditionally c s fun md => .next ((s.write md 14#4 (s.pc + 4#32)).jump (branchTarget s off))

/-! ## The instructions -/

/-- B (R233). -/
def execB (c : Cond) (off : BitVec 24) (st : State) : Result :=
  branch c off st

/-- BL (R234). -/
def execBl (c : Cond) (off : BitVec 24) (st : State) : Result :=
  branchLink c off st

end Sys2Proof.Machine
end

