-- ==== Sys2Proof/Machine/Coprocessor.lean ====
section
/-! DEFINITION. The coprocessor instructions and the operations of coprocessor 15 (file 48). -/

namespace Sys2Proof.Machine

/-- A coprocessor instruction the device cannot handle: the undefined instruction trap (rules R385, R387, R390, R392, R395,
R396, R398). -/
def coprocessorTrap (c : Cond) (s : State) : Result :=
  conditionally c s fun _ => .next (s.takeException .undefined)

/-- A read of a coprocessor 15 register: its value and the state after it. -/
abbrev Cp15Read := State → Word × State

/-- The ID register (rules R51, R401). -/
def readId (s : State) : Word × State := ((0x4104710#28 ++ Config.idRevision : BitVec 32), s)

/-- The FSR: status, domain, zeros, and a top of any value (rules R55, R408; U18). -/
def readFsr (s : State) : Word × State :=
  ((s.draw.1.extractLsb' 12 20 ++ 0#4 ++ s.cp15.fsrDomain ++ s.cp15.fsrStatus : BitVec 32), s.draw.2)

/-- The FAR (rules R56, R409). -/
def readFar (s : State) : Word × State := (s.cp15.far, s)

/-- A read of an invalid register: any value (rules R58, R410; U14). -/
def invalidRead (s : State) : Word × State := s.draw

/-- A value read from coprocessor 15 to Rd, or its top four bits to the flags if Rd = R15 (rule R399). -/
def deliverCp15 (s : State) (md : Mode) (rd : RegNo) (v : Word) : State :=
  if rd = 15#4 then s.setCpsr (withFlagBits s.cpsr (v.extractLsb' 28 4)) else s.write md rd v

/-- Are the fields that Figure 5-1 leaves blank zero (rule R411)? -/
def cp15FieldsZero (opc info : BitVec 3) (crm : BitVec 4) : Bool := opc == 0#3 && info == 0#3 && crm == 0#4

/-- MRC from registers 0 to 7 of coprocessor 15 (rules R398, R399, R411). -/
def cp15Read (c : Cond) (opc : BitVec 3) (rd : RegNo) (info : BitVec 3) (crm : BitVec 4) (rf : Cp15Read)
    (s : State) : Result :=
  conditionally c s fun md =>
    if !md.privileged then .next (s.takeException .undefined)
    else if !cp15FieldsZero opc info crm then .refused .cp15ReservedFields
    else .next (deliverCp15 (rf s).2 md rd (rf s).1).advance

/-- A write of a coprocessor 15 register. -/
abbrev Cp15Write := Word → State → Result

/-- The Control register (rules R52, R177, R402; U12, U22). -/
def writeControl (v : Word) (s : State) : Result :=
  if v.extractLsb' 11 21 ≠ 0#21 then .refused .cp15ReservedData
  else if (v.getLsbD 2 || v.getLsbD 3) && !v.getLsbD 0 then .refused .enableWithoutMmu
  else .next { s with cp15 := { s.cp15 with control := v } }.advance

/-- The Translation Table Base (rules R53, R403; U12). -/
def writeTtb (v : Word) (s : State) : Result :=
  if v.extractLsb' 0 14 ≠ 0#14 then .refused .cp15ReservedData
  else .next { s with cp15 := { s.cp15 with ttb := v } }.advance

/-- Domain Access Control (rules R54, R404). -/
def writeDac (v : Word) (s : State) : Result := .next { s with cp15 := { s.cp15 with dac := v } }.advance

/-- Flush the TLB; the data is discarded (rule R405). -/
def flushTlb (_ : Word) (s : State) : Result := .next (s.withSys s.sys.tlbFlush).advance

/-- Purge the TLB entries that translate the address (rule R406; U12). -/
def purgeTlb (a : Word) (s : State) : Result :=
  if a.extractLsb' 0 12 ≠ 0#12 then .refused .cp15ReservedData
  else .next (s.withSys (s.sys.tlbPurge a)).advance

/-- Flush the cache; the data is discarded (rule R407). -/
def flushIdc (_ : Word) (s : State) : Result := .next (s.withSys s.sys.cacheFlush).advance

/-- A write of an invalid register: no effect (rules R58, R410). -/
def invalidWrite (_ : Word) (s : State) : Result := .next s.advance

/-- MCR to registers 0 to 7 of coprocessor 15 (rules R398, R400, R411). -/
def cp15Write (c : Cond) (opc : BitVec 3) (rd : RegNo) (info : BitVec 3) (crm : BitVec 4) (wf : Cp15Write)
    (s : State) : Result :=
  conditionally c s fun md =>
    if !md.privileged then .next (s.takeException .undefined)
    else if !cp15FieldsZero opc info crm then .refused .cp15ReservedFields
    else wf (s.read md rd 12#32) s

/-! ## The instructions -/

/-- LDC: always the undefined instruction trap (R390). -/
def execLdc (c : Cond) (_pre _up _n _w : Bool) (_rn : RegNo) (_crd _cp : BitVec 4) (_off : BitVec 8)
    (st : State) : Result :=
  coprocessorTrap c st

/-- STC: always the undefined instruction trap (R392). -/
def execStc (c : Cond) (_pre _up _n _w : Bool) (_rn : RegNo) (_crd _cp : BitVec 4) (_off : BitVec 8)
    (st : State) : Result :=
  coprocessorTrap c st

/-- CDP: always the undefined instruction trap (R387). -/
def execCdp (c : Cond) (_opc _crn _crd _cp : BitVec 4) (_info : BitVec 3) (_crm : BitVec 4) (st : State) : Result :=
  coprocessorTrap c st

/-- MRC with a coprocessor number other than 15: the undefined instruction trap (R395). -/
def execMrc (c : Cond) (_opc : BitVec 3) (_crn : BitVec 4) (_rd : RegNo) (_cp : BitVec 4) (_info : BitVec 3)
    (_crm : BitVec 4) (st : State) : Result :=
  coprocessorTrap c st

/-- MCR with a coprocessor number other than 15: the undefined instruction trap (R396). -/
def execMcr (c : Cond) (_opc : BitVec 3) (_crn : BitVec 4) (_rd : RegNo) (_cp : BitVec 4) (_info : BitVec 3)
    (_crm : BitVec 4) (st : State) : Result :=
  coprocessorTrap c st

/-- MRC p15: read the ID register (R401). -/
def execMrcId (c : Cond) (opc : BitVec 3) (rd : RegNo) (info : BitVec 3) (crm : BitVec 4) (st : State) : Result :=
  cp15Read c opc rd info crm readId st

/-- MCR p15: write the Control register (R402). -/
def execMcrControl (c : Cond) (opc : BitVec 3) (rd : RegNo) (info : BitVec 3) (crm : BitVec 4)
    (st : State) : Result :=
  cp15Write c opc rd info crm writeControl st

/-- MCR p15: write the Translation Table Base (R403). -/
def execMcrTtb (c : Cond) (opc : BitVec 3) (rd : RegNo) (info : BitVec 3) (crm : BitVec 4) (st : State) : Result :=
  cp15Write c opc rd info crm writeTtb st

/-- MCR p15: write Domain Access Control (R404). -/
def execMcrDac (c : Cond) (opc : BitVec 3) (rd : RegNo) (info : BitVec 3) (crm : BitVec 4) (st : State) : Result :=
  cp15Write c opc rd info crm writeDac st

/-- MRC p15: read the Fault Status register (R408). -/
def execMrcFsr (c : Cond) (opc : BitVec 3) (rd : RegNo) (info : BitVec 3) (crm : BitVec 4) (st : State) : Result :=
  cp15Read c opc rd info crm readFsr st

/-- MCR p15: flush the TLB (R405). -/
def execMcrFlushTlb (c : Cond) (opc : BitVec 3) (rd : RegNo) (info : BitVec 3) (crm : BitVec 4)
    (st : State) : Result :=
  cp15Write c opc rd info crm flushTlb st

/-- MRC p15: read the Fault Address register (R409). -/
def execMrcFar (c : Cond) (opc : BitVec 3) (rd : RegNo) (info : BitVec 3) (crm : BitVec 4) (st : State) : Result :=
  cp15Read c opc rd info crm readFar st

/-- MCR p15: purge a TLB entry (R406). -/
def execMcrPurgeTlb (c : Cond) (opc : BitVec 3) (rd : RegNo) (info : BitVec 3) (crm : BitVec 4)
    (st : State) : Result :=
  cp15Write c opc rd info crm purgeTlb st

/-- MCR p15: flush the cache (R407). -/
def execMcrFlushIdc (c : Cond) (opc : BitVec 3) (rd : RegNo) (info : BitVec 3) (crm : BitVec 4)
    (st : State) : Result :=
  cp15Write c opc rd info crm flushIdc st

/-- MCR p15: invalid write of register 0: no effect (R410). -/
def execMcrC0 (c : Cond) (opc : BitVec 3) (rd : RegNo) (info : BitVec 3) (crm : BitVec 4) (st : State) : Result :=
  cp15Write c opc rd info crm invalidWrite st

/-- MRC p15: invalid read of register 1: any value (R410). -/
def execMrcC1 (c : Cond) (opc : BitVec 3) (rd : RegNo) (info : BitVec 3) (crm : BitVec 4) (st : State) : Result :=
  cp15Read c opc rd info crm invalidRead st

/-- MRC p15: invalid read of register 2: any value (R410). -/
def execMrcC2 (c : Cond) (opc : BitVec 3) (rd : RegNo) (info : BitVec 3) (crm : BitVec 4) (st : State) : Result :=
  cp15Read c opc rd info crm invalidRead st

/-- MRC p15: invalid read of register 3: any value (R410). -/
def execMrcC3 (c : Cond) (opc : BitVec 3) (rd : RegNo) (info : BitVec 3) (crm : BitVec 4) (st : State) : Result :=
  cp15Read c opc rd info crm invalidRead st

/-- MRC p15: invalid read of register 4: any value (R410). -/
def execMrcC4 (c : Cond) (opc : BitVec 3) (rd : RegNo) (info : BitVec 3) (crm : BitVec 4) (st : State) : Result :=
  cp15Read c opc rd info crm invalidRead st

/-- MCR p15: invalid write of register 4: no effect (R410). -/
def execMcrC4 (c : Cond) (opc : BitVec 3) (rd : RegNo) (info : BitVec 3) (crm : BitVec 4) (st : State) : Result :=
  cp15Write c opc rd info crm invalidWrite st

/-- MRC p15: invalid read of register 7: any value (R410). -/
def execMrcC7 (c : Cond) (opc : BitVec 3) (rd : RegNo) (info : BitVec 3) (crm : BitVec 4) (st : State) : Result :=
  cp15Read c opc rd info crm invalidRead st

/-- MRC p15 to registers 8 to 15: the undefined instruction trap in every mode (R398). -/
def execMrcHigh (c : Cond) (_opc _crn : BitVec 3) (_rd : RegNo) (_info : BitVec 3) (_crm : BitVec 4)
    (st : State) : Result :=
  coprocessorTrap c st

/-- MCR p15 to registers 8 to 15: the undefined instruction trap in every mode (R398). -/
def execMcrHigh (c : Cond) (_opc _crn : BitVec 3) (_rd : RegNo) (_info : BitVec 3) (_crm : BitVec 4)
    (st : State) : Result :=
  coprocessorTrap c st

end Sys2Proof.Machine
end

