-- ==== Sys2Proof/Machine/DataProcessing.lean ====
section
/-! DEFINITION. Data processing (file 41): the shared meaning over its operation, then one definition per instruction. -/

namespace Sys2Proof.Machine

/-- The sixteen operations (rule R184). -/
inductive DpOp where
  | and | eor | sub | rsb | add | adc | sbc | rsc | tst | teq | cmp | cmn | orr | mov | bic | mvn
  deriving DecidableEq, Repr

/-- Does the operation only set flags (rule R253)? -/
def DpOp.isTest : DpOp → Bool
  | .tst | .teq | .cmp | .cmn => true
  | .and | .eor | .sub | .rsb | .add | .adc | .sbc | .rsc | .orr | .mov | .bic | .mvn => false

/-- The result and the flags of an operation on op1, op2 and the shifter carry (rules R184, R250, R251, R260 to R275). -/
def DpOp.compute (op : DpOp) (op1 op2 : Word) (shc : Bool) (old : Flags) : AluResult :=
  match op with
  | .and => logicalResult (op1 &&& op2) shc old
  | .eor => logicalResult (op1 ^^^ op2) shc old
  | .sub => addWithCarry op1 (~~~op2) true
  | .rsb => addWithCarry op2 (~~~op1) true
  | .add => addWithCarry op1 op2 false
  | .adc => addWithCarry op1 op2 old.c
  | .sbc => addWithCarry op1 (~~~op2) old.c
  | .rsc => addWithCarry op2 (~~~op1) old.c
  | .tst => logicalResult (op1 &&& op2) shc old
  | .teq => logicalResult (op1 ^^^ op2) shc old
  | .cmp => addWithCarry op1 (~~~op2) true
  | .cmn => addWithCarry op1 op2 false
  | .orr => logicalResult (op1 ||| op2) shc old
  | .mov => logicalResult op2 shc old
  | .bic => logicalResult (op1 &&& ~~~op2) shc old
  | .mvn => logicalResult (~~~op2) shc old

/-- The result of a data processing instruction executed in mode `md` (rules R240, R249). -/
def dpResult (op : DpOp) (rn : RegNo) (o : Operand2) (s : State) (md : Mode) : AluResult :=
  op.compute (s.read md rn o.ahead) (o.value s md).value (o.value s md).carry s.flags

/-- Writing the result of an operation with Rd = R15 (rule R252). -/
def writePc (sBit : Bool) (v : Word) (s : State) (md : Mode) : Result :=
  if sBit then
    match s.spsr md with
    | none => .refused .pcWithFlagsInUserMode
    | some p => .next (s.returnFrom p v)
  else .next (s.jump v)

/-- A test operation with Rd = R15, the P form (rule R253). -/
def testToPsr (s : State) (md : Mode) : Result :=
  match s.spsr md with
  | none => .next s.advance
  | some p => .next (s.setCpsr p).advance

/-- Writing the result and the flags (rules R250 to R253). -/
def dpFinish (op : DpOp) (sBit : Bool) (rd : RegNo) (r : AluResult) (s : State) (md : Mode) : Result :=
  if op.isTest then
    if rd = 15#4 then testToPsr s md else .next (s.setFlagsIf sBit r.flags).advance
  else if rd = 15#4 then writePc sBit r.value s md
  else .next ((s.write md rd r.value).setFlagsIf sBit r.flags).advance

/-- A data processing instruction (rule R240). -/
def dataProcessing (op : DpOp) (c : Cond) (sBit : Bool) (rn rd : RegNo) (o : Operand2) (s : State) : Result :=
  conditionally c s fun md =>
    if o.amountIsR15 then .refused .shiftAmountR15
    else dpFinish op sBit rd (dpResult op rn o s md) s md

/-! ## The instructions -/

/-- AND with a rotated immediate (R260, R183, R247). -/
def execAndImm (c : Cond) (s : Bool) (rn rd : RegNo) (rot : BitVec 4) (imm : BitVec 8) (st : State) : Result :=
  dataProcessing .and c s rn rd (.imm rot imm) st

/-- AND with Rm shifted by an amount in the instruction (R260, R185). -/
def execAndShImm (c : Cond) (s : Bool) (rn rd : RegNo) (amt : BitVec 5) (ty : ShiftType) (rm : RegNo)
    (st : State) : Result :=
  dataProcessing .and c s rn rd (.shImm amt ty rm) st

/-- AND with Rm shifted by the bottom byte of Rs (R260, R185, R248). -/
def execAndShReg (c : Cond) (s : Bool) (rn rd rs : RegNo) (ty : ShiftType) (rm : RegNo) (st : State) : Result :=
  dataProcessing .and c s rn rd (.shReg rs ty rm) st

/-- EOR with a rotated immediate (R261, R183, R247). -/
def execEorImm (c : Cond) (s : Bool) (rn rd : RegNo) (rot : BitVec 4) (imm : BitVec 8) (st : State) : Result :=
  dataProcessing .eor c s rn rd (.imm rot imm) st

/-- EOR with Rm shifted by an amount in the instruction (R261, R185). -/
def execEorShImm (c : Cond) (s : Bool) (rn rd : RegNo) (amt : BitVec 5) (ty : ShiftType) (rm : RegNo)
    (st : State) : Result :=
  dataProcessing .eor c s rn rd (.shImm amt ty rm) st

/-- EOR with Rm shifted by the bottom byte of Rs (R261, R185, R248). -/
def execEorShReg (c : Cond) (s : Bool) (rn rd rs : RegNo) (ty : ShiftType) (rm : RegNo) (st : State) : Result :=
  dataProcessing .eor c s rn rd (.shReg rs ty rm) st

/-- SUB with a rotated immediate (R262, R183, R247). -/
def execSubImm (c : Cond) (s : Bool) (rn rd : RegNo) (rot : BitVec 4) (imm : BitVec 8) (st : State) : Result :=
  dataProcessing .sub c s rn rd (.imm rot imm) st

/-- SUB with Rm shifted by an amount in the instruction (R262, R185). -/
def execSubShImm (c : Cond) (s : Bool) (rn rd : RegNo) (amt : BitVec 5) (ty : ShiftType) (rm : RegNo)
    (st : State) : Result :=
  dataProcessing .sub c s rn rd (.shImm amt ty rm) st

/-- SUB with Rm shifted by the bottom byte of Rs (R262, R185, R248). -/
def execSubShReg (c : Cond) (s : Bool) (rn rd rs : RegNo) (ty : ShiftType) (rm : RegNo) (st : State) : Result :=
  dataProcessing .sub c s rn rd (.shReg rs ty rm) st

/-- RSB with a rotated immediate (R263, R183, R247). -/
def execRsbImm (c : Cond) (s : Bool) (rn rd : RegNo) (rot : BitVec 4) (imm : BitVec 8) (st : State) : Result :=
  dataProcessing .rsb c s rn rd (.imm rot imm) st

/-- RSB with Rm shifted by an amount in the instruction (R263, R185). -/
def execRsbShImm (c : Cond) (s : Bool) (rn rd : RegNo) (amt : BitVec 5) (ty : ShiftType) (rm : RegNo)
    (st : State) : Result :=
  dataProcessing .rsb c s rn rd (.shImm amt ty rm) st

/-- RSB with Rm shifted by the bottom byte of Rs (R263, R185, R248). -/
def execRsbShReg (c : Cond) (s : Bool) (rn rd rs : RegNo) (ty : ShiftType) (rm : RegNo) (st : State) : Result :=
  dataProcessing .rsb c s rn rd (.shReg rs ty rm) st

/-- ADD with a rotated immediate (R264, R183, R247). -/
def execAddImm (c : Cond) (s : Bool) (rn rd : RegNo) (rot : BitVec 4) (imm : BitVec 8) (st : State) : Result :=
  dataProcessing .add c s rn rd (.imm rot imm) st

/-- ADD with Rm shifted by an amount in the instruction (R264, R185). -/
def execAddShImm (c : Cond) (s : Bool) (rn rd : RegNo) (amt : BitVec 5) (ty : ShiftType) (rm : RegNo)
    (st : State) : Result :=
  dataProcessing .add c s rn rd (.shImm amt ty rm) st

/-- ADD with Rm shifted by the bottom byte of Rs (R264, R185, R248). -/
def execAddShReg (c : Cond) (s : Bool) (rn rd rs : RegNo) (ty : ShiftType) (rm : RegNo) (st : State) : Result :=
  dataProcessing .add c s rn rd (.shReg rs ty rm) st

/-- ADC with a rotated immediate (R265, R183, R247). -/
def execAdcImm (c : Cond) (s : Bool) (rn rd : RegNo) (rot : BitVec 4) (imm : BitVec 8) (st : State) : Result :=
  dataProcessing .adc c s rn rd (.imm rot imm) st

/-- ADC with Rm shifted by an amount in the instruction (R265, R185). -/
def execAdcShImm (c : Cond) (s : Bool) (rn rd : RegNo) (amt : BitVec 5) (ty : ShiftType) (rm : RegNo)
    (st : State) : Result :=
  dataProcessing .adc c s rn rd (.shImm amt ty rm) st

/-- ADC with Rm shifted by the bottom byte of Rs (R265, R185, R248). -/
def execAdcShReg (c : Cond) (s : Bool) (rn rd rs : RegNo) (ty : ShiftType) (rm : RegNo) (st : State) : Result :=
  dataProcessing .adc c s rn rd (.shReg rs ty rm) st

/-- SBC with a rotated immediate (R266, R183, R247). -/
def execSbcImm (c : Cond) (s : Bool) (rn rd : RegNo) (rot : BitVec 4) (imm : BitVec 8) (st : State) : Result :=
  dataProcessing .sbc c s rn rd (.imm rot imm) st

/-- SBC with Rm shifted by an amount in the instruction (R266, R185). -/
def execSbcShImm (c : Cond) (s : Bool) (rn rd : RegNo) (amt : BitVec 5) (ty : ShiftType) (rm : RegNo)
    (st : State) : Result :=
  dataProcessing .sbc c s rn rd (.shImm amt ty rm) st

/-- SBC with Rm shifted by the bottom byte of Rs (R266, R185, R248). -/
def execSbcShReg (c : Cond) (s : Bool) (rn rd rs : RegNo) (ty : ShiftType) (rm : RegNo) (st : State) : Result :=
  dataProcessing .sbc c s rn rd (.shReg rs ty rm) st

/-- RSC with a rotated immediate (R267, R183, R247). -/
def execRscImm (c : Cond) (s : Bool) (rn rd : RegNo) (rot : BitVec 4) (imm : BitVec 8) (st : State) : Result :=
  dataProcessing .rsc c s rn rd (.imm rot imm) st

/-- RSC with Rm shifted by an amount in the instruction (R267, R185). -/
def execRscShImm (c : Cond) (s : Bool) (rn rd : RegNo) (amt : BitVec 5) (ty : ShiftType) (rm : RegNo)
    (st : State) : Result :=
  dataProcessing .rsc c s rn rd (.shImm amt ty rm) st

/-- RSC with Rm shifted by the bottom byte of Rs (R267, R185, R248). -/
def execRscShReg (c : Cond) (s : Bool) (rn rd rs : RegNo) (ty : ShiftType) (rm : RegNo) (st : State) : Result :=
  dataProcessing .rsc c s rn rd (.shReg rs ty rm) st

/-- TST with a rotated immediate (R268, R183, R247). -/
def execTstImm (c : Cond) (rn rd : RegNo) (rot : BitVec 4) (imm : BitVec 8) (st : State) : Result :=
  dataProcessing .tst c true rn rd (.imm rot imm) st

/-- TST with Rm shifted by an amount in the instruction (R268, R185). -/
def execTstShImm (c : Cond) (rn rd : RegNo) (amt : BitVec 5) (ty : ShiftType) (rm : RegNo) (st : State) : Result :=
  dataProcessing .tst c true rn rd (.shImm amt ty rm) st

/-- TST with Rm shifted by the bottom byte of Rs (R268, R185, R248). -/
def execTstShReg (c : Cond) (rn rd rs : RegNo) (ty : ShiftType) (rm : RegNo) (st : State) : Result :=
  dataProcessing .tst c true rn rd (.shReg rs ty rm) st

/-- TEQ with a rotated immediate (R269, R183, R247). -/
def execTeqImm (c : Cond) (rn rd : RegNo) (rot : BitVec 4) (imm : BitVec 8) (st : State) : Result :=
  dataProcessing .teq c true rn rd (.imm rot imm) st

/-- TEQ with Rm shifted by an amount in the instruction (R269, R185). -/
def execTeqShImm (c : Cond) (rn rd : RegNo) (amt : BitVec 5) (ty : ShiftType) (rm : RegNo) (st : State) : Result :=
  dataProcessing .teq c true rn rd (.shImm amt ty rm) st

/-- TEQ with Rm shifted by the bottom byte of Rs (R269, R185, R248). -/
def execTeqShReg (c : Cond) (rn rd rs : RegNo) (ty : ShiftType) (rm : RegNo) (st : State) : Result :=
  dataProcessing .teq c true rn rd (.shReg rs ty rm) st

/-- CMP with a rotated immediate (R270, R183, R247). -/
def execCmpImm (c : Cond) (rn rd : RegNo) (rot : BitVec 4) (imm : BitVec 8) (st : State) : Result :=
  dataProcessing .cmp c true rn rd (.imm rot imm) st

/-- CMP with Rm shifted by an amount in the instruction (R270, R185). -/
def execCmpShImm (c : Cond) (rn rd : RegNo) (amt : BitVec 5) (ty : ShiftType) (rm : RegNo) (st : State) : Result :=
  dataProcessing .cmp c true rn rd (.shImm amt ty rm) st

/-- CMP with Rm shifted by the bottom byte of Rs (R270, R185, R248). -/
def execCmpShReg (c : Cond) (rn rd rs : RegNo) (ty : ShiftType) (rm : RegNo) (st : State) : Result :=
  dataProcessing .cmp c true rn rd (.shReg rs ty rm) st

/-- CMN with a rotated immediate (R271, R183, R247). -/
def execCmnImm (c : Cond) (rn rd : RegNo) (rot : BitVec 4) (imm : BitVec 8) (st : State) : Result :=
  dataProcessing .cmn c true rn rd (.imm rot imm) st

/-- CMN with Rm shifted by an amount in the instruction (R271, R185). -/
def execCmnShImm (c : Cond) (rn rd : RegNo) (amt : BitVec 5) (ty : ShiftType) (rm : RegNo) (st : State) : Result :=
  dataProcessing .cmn c true rn rd (.shImm amt ty rm) st

/-- CMN with Rm shifted by the bottom byte of Rs (R271, R185, R248). -/
def execCmnShReg (c : Cond) (rn rd rs : RegNo) (ty : ShiftType) (rm : RegNo) (st : State) : Result :=
  dataProcessing .cmn c true rn rd (.shReg rs ty rm) st

/-- ORR with a rotated immediate (R272, R183, R247). -/
def execOrrImm (c : Cond) (s : Bool) (rn rd : RegNo) (rot : BitVec 4) (imm : BitVec 8) (st : State) : Result :=
  dataProcessing .orr c s rn rd (.imm rot imm) st

/-- ORR with Rm shifted by an amount in the instruction (R272, R185). -/
def execOrrShImm (c : Cond) (s : Bool) (rn rd : RegNo) (amt : BitVec 5) (ty : ShiftType) (rm : RegNo)
    (st : State) : Result :=
  dataProcessing .orr c s rn rd (.shImm amt ty rm) st

/-- ORR with Rm shifted by the bottom byte of Rs (R272, R185, R248). -/
def execOrrShReg (c : Cond) (s : Bool) (rn rd rs : RegNo) (ty : ShiftType) (rm : RegNo) (st : State) : Result :=
  dataProcessing .orr c s rn rd (.shReg rs ty rm) st

/-- MOV with a rotated immediate (R273, R183, R247). -/
def execMovImm (c : Cond) (s : Bool) (rn rd : RegNo) (rot : BitVec 4) (imm : BitVec 8) (st : State) : Result :=
  dataProcessing .mov c s rn rd (.imm rot imm) st

/-- MOV with Rm shifted by an amount in the instruction (R273, R185). -/
def execMovShImm (c : Cond) (s : Bool) (rn rd : RegNo) (amt : BitVec 5) (ty : ShiftType) (rm : RegNo)
    (st : State) : Result :=
  dataProcessing .mov c s rn rd (.shImm amt ty rm) st

/-- MOV with Rm shifted by the bottom byte of Rs (R273, R185, R248). -/
def execMovShReg (c : Cond) (s : Bool) (rn rd rs : RegNo) (ty : ShiftType) (rm : RegNo) (st : State) : Result :=
  dataProcessing .mov c s rn rd (.shReg rs ty rm) st

/-- BIC with a rotated immediate (R274, R183, R247). -/
def execBicImm (c : Cond) (s : Bool) (rn rd : RegNo) (rot : BitVec 4) (imm : BitVec 8) (st : State) : Result :=
  dataProcessing .bic c s rn rd (.imm rot imm) st

/-- BIC with Rm shifted by an amount in the instruction (R274, R185). -/
def execBicShImm (c : Cond) (s : Bool) (rn rd : RegNo) (amt : BitVec 5) (ty : ShiftType) (rm : RegNo)
    (st : State) : Result :=
  dataProcessing .bic c s rn rd (.shImm amt ty rm) st

/-- BIC with Rm shifted by the bottom byte of Rs (R274, R185, R248). -/
def execBicShReg (c : Cond) (s : Bool) (rn rd rs : RegNo) (ty : ShiftType) (rm : RegNo) (st : State) : Result :=
  dataProcessing .bic c s rn rd (.shReg rs ty rm) st

/-- MVN with a rotated immediate (R275, R183, R247). -/
def execMvnImm (c : Cond) (s : Bool) (rn rd : RegNo) (rot : BitVec 4) (imm : BitVec 8) (st : State) : Result :=
  dataProcessing .mvn c s rn rd (.imm rot imm) st

/-- MVN with Rm shifted by an amount in the instruction (R275, R185). -/
def execMvnShImm (c : Cond) (s : Bool) (rn rd : RegNo) (amt : BitVec 5) (ty : ShiftType) (rm : RegNo)
    (st : State) : Result :=
  dataProcessing .mvn c s rn rd (.shImm amt ty rm) st

/-- MVN with Rm shifted by the bottom byte of Rs (R275, R185, R248). -/
def execMvnShReg (c : Cond) (s : Bool) (rn rd rs : RegNo) (ty : ShiftType) (rm : RegNo) (st : State) : Result :=
  dataProcessing .mvn c s rn rd (.shReg rs ty rm) st

end Sys2Proof.Machine
end

