-- ==== Sys2Proof/Machine/Multiply.lean ====
section
/-! DEFINITION. Multiply and multiply-accumulate (file 43). -/

namespace Sys2Proof.Machine

/-- The flags of MULS and MLAS: N and Z from the result, C any value, V kept (rule R303; U8). -/
def multiplyFlags (result : Word) (c : Bool) (old : Flags) : Flags :=
  { n := result.getLsbD 31, z := result == 0, c := c, v := old.v }

/-- Write the result, and with S the flags, whose C is the next free bit (rule R303). -/
def multiplyFinish (sBit : Bool) (rd : RegNo) (result : Word) (s : State) (md : Mode) : Result :=
  if sBit then
    .next ((s.draw.2.write md rd result).setFlags (multiplyFlags result (s.draw.1.getLsbD 0) s.flags)).advance
  else .next (s.write md rd result).advance

/-- MUL (rules R301, R304): zero if Rd = Rm. -/
def multiply (c : Cond) (sBit : Bool) (rd rs rm : RegNo) (s : State) : Result :=
  conditionally c s fun md =>
    if rd = 15#4 ∨ rs = 15#4 ∨ rm = 15#4 then .refused .multiplyR15
    else
      multiplyFinish sBit rd (if rd = rm then 0 else s.read md rm 8#32 * s.read md rs 8#32) s md

/-- MLA (rules R302, R304): any value if Rd = Rm. -/
def multiplyAccumulate (c : Cond) (sBit : Bool) (rd rn rs rm : RegNo) (s : State) : Result :=
  conditionally c s fun md =>
    if rd = 15#4 ∨ rs = 15#4 ∨ rm = 15#4 ∨ rn = 15#4 then .refused .multiplyR15
    else if rd = rm then multiplyFinish sBit rd s.draw.1 s.draw.2 md
    else multiplyFinish sBit rd (s.read md rm 8#32 * s.read md rs 8#32 + s.read md rn 8#32) s md

/-! ## The instructions -/

/-- MUL (R301); the Rn field is ignored. -/
def execMul (c : Cond) (s : Bool) (rd _rn rs rm : RegNo) (st : State) : Result :=
  multiply c s rd rs rm st

/-- MLA (R302). -/
def execMla (c : Cond) (s : Bool) (rd rn rs rm : RegNo) (st : State) : Result :=
  multiplyAccumulate c s rd rn rs rm st

end Sys2Proof.Machine
end

