-- ==== Sys2Proof/Machine/PsrTransfer.lean ====
section
/-! DEFINITION. PSR transfer (file 42). -/

namespace Sys2Proof.Machine

/-- The PSR an MRS or MSR names; none for the SPSR in User mode (rules R186, R293). -/
def State.psr (s : State) (md : Mode) (sel : PsrSel) : Option Word :=
  match sel with
  | .cpsr => some s.cpsr
  | .spsr => s.spsr md

/-- The PSR an MSR names, written; nothing for the SPSR in User mode. -/
def State.setPsr (s : State) (md : Mode) (sel : PsrSel) (v : Word) : State :=
  match sel with
  | .cpsr => s.setCpsr v
  | .spsr => s.setSpsr md v

/-- MRS (rule R291). -/
def moveFromPsr (c : Cond) (sel : PsrSel) (rd : RegNo) (s : State) : Result :=
  conditionally c s fun md =>
    if rd = 15#4 then .refused .psrTransferR15
    else
      match s.psr md sel with
      | none => .refused .spsrInUserMode
      | some p => .next (s.write md rd p).advance

/-- MSR, a register to a whole PSR (rules R292, R293): in User mode only the flags of the CPSR change. -/
def moveToPsr (c : Cond) (sel : PsrSel) (rm : RegNo) (s : State) : Result :=
  conditionally c s fun md =>
    if rm = 15#4 then .refused .psrTransferR15
    else
      match s.psr md sel with
      | none => .refused .spsrInUserMode
      | some p =>
        let v := s.read md rm 8#32
        .next (s.setPsr md sel (if md.privileged then v else withFlagBits p (v.extractLsb' 28 4))).advance

/-- The source of an MSR to the flag bits (rule R186). -/
inductive FlagSource where
  | reg (rm : RegNo)
  | imm (rot : BitVec 4) (v : BitVec 8)
  deriving DecidableEq, Repr

/-- Is it R15 (rule R294)? -/
def FlagSource.isR15 : FlagSource → Bool
  | .reg rm => rm == 15#4
  | .imm _ _ => false

/-- Its value (rules R294, R295). -/
def FlagSource.value (f : FlagSource) (s : State) (md : Mode) : Word :=
  match f with
  | .reg rm => s.read md rm 8#32
  | .imm rot v => rotatedImmediate rot v

/-- MSR to the flag bits of a PSR (rules R294, R295). -/
def moveToFlags (c : Cond) (sel : PsrSel) (f : FlagSource) (s : State) : Result :=
  conditionally c s fun md =>
    if f.isR15 then .refused .psrTransferR15
    else
      match s.psr md sel with
      | none => .refused .spsrInUserMode
      | some p => .next (s.setPsr md sel (withFlagBits p ((f.value s md).extractLsb' 28 4))).advance

/-! ## The instructions -/

/-- MRS: a PSR to a register (R291). -/
def execMrs (c : Cond) (ps : PsrSel) (rd : RegNo) (st : State) : Result :=
  moveFromPsr c ps rd st

/-- MSR: a register to a whole PSR (R292). -/
def execMsrPsr (c : Cond) (pd : PsrSel) (rm : RegNo) (st : State) : Result :=
  moveToPsr c pd rm st

/-- MSR: a register to the flag bits of a PSR (R294). -/
def execMsrFlagsReg (c : Cond) (pd : PsrSel) (rm : RegNo) (st : State) : Result :=
  moveToFlags c pd (.reg rm) st

/-- MSR: a rotated immediate to the flag bits of a PSR (R295). -/
def execMsrFlagsImm (c : Cond) (pd : PsrSel) (rot : BitVec 4) (imm : BitVec 8) (st : State) : Result :=
  moveToFlags c pd (.imm rot imm) st

end Sys2Proof.Machine
end

