-- ==== Sys2Proof/Machine/SingleTransfer.lean ====
section
/-! DEFINITION. Single data transfer (file 44): the shared load and store, then one definition per instruction. -/

namespace Sys2Proof.Machine

/-- Base write-back, if the form has it (rules R312, R326). -/
def writeBack (s : State) (md : Mode) (ix : Indexing) (rn : RegNo) (v : Word) : State :=
  if ix.writesBack then s.write md rn v else s

/-- Is Rd the base of a transfer with write-back (rule R324, U16)? -/
def baseIsData (ix : Indexing) (rn rd : RegNo) : Bool := ix.writesBack && rn == rd

/-- The loaded value to Rd: a branch if Rd = R15 (rule R314). -/
def deliverLoad (s : State) (md : Mode) (rd : RegNo) (v : Word) : Result :=
  if rd = 15#4 then .next (s.jump v) else .next (s.write md rd v).advance

/-- LDR, LDRB and the T forms (rules R312, R313, R315, R318, R319, R325).  With write-back to Rd = Rn the register gets any
value (rule R324; log entry 32). -/
def loadRegister (sz : Size) (c : Cond) (ix : Indexing) (up : Bool) (rn rd : RegNo) (off : Offset) (s : State) :
    Result :=
  conditionally c s fun md =>
    match transferRestriction ix rn off with
    | some r => .refused r
    | none =>
      match memRead s.cp15 sz (transferAddress s md ix up rn off) (ix.privilege md) s.sys with
      | .refuse r => .refused r
      | .abort f m => .next ((writeBack (s.withSys m) md ix rn (modifiedBase s md up rn off)).dataAbort f)
      | .ok v m =>
        if baseIsData ix rn rd then .next ((s.withSys m).draw.2.write md rd (s.withSys m).draw.1).advance
        else deliverLoad (writeBack (s.withSys m) md ix rn (modifiedBase s md up rn off)) md rd v

/-- The value a store writes: Rd, or `ia + 12` for R15 (rules R316, R317, R322). -/
def storedValue (s : State) (md : Mode) (rd : RegNo) : Word := s.read md rd 12#32

/-- STR, STRB and the T forms (rules R312, R316, R317, R320, R321, R325).  With write-back to Rd = Rn both the stored value and
the register are any value (rule R324; log entry 32). -/
def storeRegister (sz : Size) (c : Cond) (ix : Indexing) (up : Bool) (rn rd : RegNo) (off : Offset) (s : State) :
    Result :=
  conditionally c s fun md =>
    match transferRestriction ix rn off with
    | some r => .refused r
    | none =>
      if baseIsData ix rn rd then
        match memWrite s.cp15 .single sz (transferAddress s md ix up rn off) (ix.privilege md) s.draw.1
            s.draw.2.sys with
        | .refuse r => .refused r
        | .abort f m => .next ((writeBack (s.withSys m) md ix rn (modifiedBase s md up rn off)).dataAbort f)
        | .ok _ m => .next ((s.withSys m).draw.2.write md rn (s.withSys m).draw.1).advance
      else
        match memWrite s.cp15 .single sz (transferAddress s md ix up rn off) (ix.privilege md) (storedValue s md rd)
            s.sys with
        | .refuse r => .refused r
        | .abort f m => .next ((writeBack (s.withSys m) md ix rn (modifiedBase s md up rn off)).dataAbort f)
        | .ok _ m => .next (writeBack (s.withSys m) md ix rn (modifiedBase s md up rn off)).advance

/-! ## The instructions -/

/-- LDR, immediate offset, pre-indexed (R313). -/
def execLdrImmPre (c : Cond) (up w : Bool) (rn rd : RegNo) (off : BitVec 12) (st : State) : Result :=
  loadRegister .word c (.pre w) up rn rd (.imm off) st

/-- LDR, immediate offset, post-indexed (R313). -/
def execLdrImmPost (c : Cond) (up : Bool) (rn rd : RegNo) (off : BitVec 12) (st : State) : Result :=
  loadRegister .word c .post up rn rd (.imm off) st

/-- LDR, register offset, pre-indexed (R313). -/
def execLdrRegPre (c : Cond) (up w : Bool) (rn rd : RegNo) (amt : BitVec 5) (ty : ShiftType) (rm : RegNo)
    (st : State) : Result :=
  loadRegister .word c (.pre w) up rn rd (.reg amt ty rm) st

/-- LDR, register offset, post-indexed (R313). -/
def execLdrRegPost (c : Cond) (up : Bool) (rn rd : RegNo) (amt : BitVec 5) (ty : ShiftType) (rm : RegNo)
    (st : State) : Result :=
  loadRegister .word c .post up rn rd (.reg amt ty rm) st

/-- LDRB, immediate offset, pre-indexed (R315). -/
def execLdrbImmPre (c : Cond) (up w : Bool) (rn rd : RegNo) (off : BitVec 12) (st : State) : Result :=
  loadRegister .byte c (.pre w) up rn rd (.imm off) st

/-- LDRB, immediate offset, post-indexed (R315). -/
def execLdrbImmPost (c : Cond) (up : Bool) (rn rd : RegNo) (off : BitVec 12) (st : State) : Result :=
  loadRegister .byte c .post up rn rd (.imm off) st

/-- LDRB, register offset, pre-indexed (R315). -/
def execLdrbRegPre (c : Cond) (up w : Bool) (rn rd : RegNo) (amt : BitVec 5) (ty : ShiftType) (rm : RegNo)
    (st : State) : Result :=
  loadRegister .byte c (.pre w) up rn rd (.reg amt ty rm) st

/-- LDRB, register offset, post-indexed (R315). -/
def execLdrbRegPost (c : Cond) (up : Bool) (rn rd : RegNo) (amt : BitVec 5) (ty : ShiftType) (rm : RegNo)
    (st : State) : Result :=
  loadRegister .byte c .post up rn rd (.reg amt ty rm) st

/-- STR, immediate offset, pre-indexed (R316). -/
def execStrImmPre (c : Cond) (up w : Bool) (rn rd : RegNo) (off : BitVec 12) (st : State) : Result :=
  storeRegister .word c (.pre w) up rn rd (.imm off) st

/-- STR, immediate offset, post-indexed (R316). -/
def execStrImmPost (c : Cond) (up : Bool) (rn rd : RegNo) (off : BitVec 12) (st : State) : Result :=
  storeRegister .word c .post up rn rd (.imm off) st

/-- STR, register offset, pre-indexed (R316). -/
def execStrRegPre (c : Cond) (up w : Bool) (rn rd : RegNo) (amt : BitVec 5) (ty : ShiftType) (rm : RegNo)
    (st : State) : Result :=
  storeRegister .word c (.pre w) up rn rd (.reg amt ty rm) st

/-- STR, register offset, post-indexed (R316). -/
def execStrRegPost (c : Cond) (up : Bool) (rn rd : RegNo) (amt : BitVec 5) (ty : ShiftType) (rm : RegNo)
    (st : State) : Result :=
  storeRegister .word c .post up rn rd (.reg amt ty rm) st

/-- STRB, immediate offset, pre-indexed (R317). -/
def execStrbImmPre (c : Cond) (up w : Bool) (rn rd : RegNo) (off : BitVec 12) (st : State) : Result :=
  storeRegister .byte c (.pre w) up rn rd (.imm off) st

/-- STRB, immediate offset, post-indexed (R317). -/
def execStrbImmPost (c : Cond) (up : Bool) (rn rd : RegNo) (off : BitVec 12) (st : State) : Result :=
  storeRegister .byte c .post up rn rd (.imm off) st

/-- STRB, register offset, pre-indexed (R317). -/
def execStrbRegPre (c : Cond) (up w : Bool) (rn rd : RegNo) (amt : BitVec 5) (ty : ShiftType) (rm : RegNo)
    (st : State) : Result :=
  storeRegister .byte c (.pre w) up rn rd (.reg amt ty rm) st

/-- STRB, register offset, post-indexed (R317). -/
def execStrbRegPost (c : Cond) (up : Bool) (rn rd : RegNo) (amt : BitVec 5) (ty : ShiftType) (rm : RegNo)
    (st : State) : Result :=
  storeRegister .byte c .post up rn rd (.reg amt ty rm) st

/-- LDRT, immediate offset (R318). -/
def execLdrtImm (c : Cond) (up : Bool) (rn rd : RegNo) (off : BitVec 12) (st : State) : Result :=
  loadRegister .word c .postUser up rn rd (.imm off) st

/-- LDRT, register offset (R318). -/
def execLdrtReg (c : Cond) (up : Bool) (rn rd : RegNo) (amt : BitVec 5) (ty : ShiftType) (rm : RegNo)
    (st : State) : Result :=
  loadRegister .word c .postUser up rn rd (.reg amt ty rm) st

/-- LDRBT, immediate offset (R319). -/
def execLdrbtImm (c : Cond) (up : Bool) (rn rd : RegNo) (off : BitVec 12) (st : State) : Result :=
  loadRegister .byte c .postUser up rn rd (.imm off) st

/-- LDRBT, register offset (R319). -/
def execLdrbtReg (c : Cond) (up : Bool) (rn rd : RegNo) (amt : BitVec 5) (ty : ShiftType) (rm : RegNo)
    (st : State) : Result :=
  loadRegister .byte c .postUser up rn rd (.reg amt ty rm) st

/-- STRT, immediate offset (R320). -/
def execStrtImm (c : Cond) (up : Bool) (rn rd : RegNo) (off : BitVec 12) (st : State) : Result :=
  storeRegister .word c .postUser up rn rd (.imm off) st

/-- STRT, register offset (R320). -/
def execStrtReg (c : Cond) (up : Bool) (rn rd : RegNo) (amt : BitVec 5) (ty : ShiftType) (rm : RegNo)
    (st : State) : Result :=
  storeRegister .word c .postUser up rn rd (.reg amt ty rm) st

/-- STRBT, immediate offset (R321). -/
def execStrbtImm (c : Cond) (up : Bool) (rn rd : RegNo) (off : BitVec 12) (st : State) : Result :=
  storeRegister .byte c .postUser up rn rd (.imm off) st

/-- STRBT, register offset (R321). -/
def execStrbtReg (c : Cond) (up : Bool) (rn rd : RegNo) (amt : BitVec 5) (ty : ShiftType) (rm : RegNo)
    (st : State) : Result :=
  storeRegister .byte c .postUser up rn rd (.reg amt ty rm) st

end Sys2Proof.Machine
end

