-- ==== Sys2Proof/Machine/Swap.lean ====
section
/-! DEFINITION. Single data swap (file 46). -/

namespace Sys2Proof.Machine

/-- The locked read and write of a swap (rules R371, R372, R374): what the read brought. -/
def swapAccess (cp : Cp15) (sz : Size) (va : Word) (priv : Bool) (v : Word) (m : MemSys) : Access Word :=
  (lockedRead cp sz va priv m).andThen fun old m1 =>
    (memWrite cp .locked sz va priv v m1).andThen fun _ m2 => .ok old m2

/-- SWP and SWPB (rules R370 to R374): an abort leaves every register as it was. -/
def swap (sz : Size) (c : Cond) (rn rd rm : RegNo) (s : State) : Result :=
  conditionally c s fun md =>
    if rd = 15#4 ∨ rn = 15#4 ∨ rm = 15#4 then .refused .swapR15
    else
      match swapAccess s.cp15 sz (s.read md rn 8#32) md.privileged (s.read md rm 8#32) s.sys with
      | .refuse r => .refused r
      | .abort f m => .next ((s.withSys m).dataAbort f)
      | .ok old m => .next ((s.withSys m).write md rd old).advance

/-! ## The instructions -/

/-- SWP (R371); bits [11:8] of the word have no effect (U15). -/
def execSwp (c : Cond) (rn rd rm : RegNo) (st : State) : Result :=
  swap .word c rn rd rm st

/-- SWPB (R372); bits [11:8] of the word have no effect (U15). -/
def execSwpb (c : Cond) (rn rd rm : RegNo) (st : State) : Result :=
  swap .byte c rn rd rm st

end Sys2Proof.Machine
end

