-- ==== Sys2Proof/Machine/Trap.lean ====
section
/-! DEFINITION. SWI and the Undefined instruction (files 47 and 49). -/

namespace Sys2Proof.Machine

/-- SWI (rules R380, R436). -/
def softwareInterrupt (c : Cond) (s : State) : Result :=
  conditionally c s fun _ => .next (s.takeException .softwareInterrupt)

/-- The Undefined instruction format (rules R420, R433). -/
def undefinedInstruction (c : Cond) (s : State) : Result :=
  conditionally c s fun _ => .next (s.takeException .undefined)

/-! ## The instructions -/

/-- SWI (R380). -/
def execSwi (c : Cond) (_comment : BitVec 24) (st : State) : Result :=
  softwareInterrupt c st

/-- The Undefined instruction format (R420). -/
def execUndefined (c : Cond) (_hi : BitVec 20) (_lo : BitVec 4) (st : State) : Result :=
  undefinedInstruction c st

end Sys2Proof.Machine
end

