-- ==== Sys2Proof/Machine/Dispatch.lean ====
section
/-! DEFINITION. One arm per instruction, each a direct call of its meaning. -/

namespace Sys2Proof.Machine

def exec (i : Instr) (s : State) : Host.Outcome State Fault Refusal :=
  match i with
  | .andImm c sb rn rd rot imm => Sys2Proof.Machine.execAndImm c sb rn rd rot imm s
  | .andShImm c sb rn rd amt ty rm => Sys2Proof.Machine.execAndShImm c sb rn rd amt ty rm s
  | .andShReg c sb rn rd rs ty rm => Sys2Proof.Machine.execAndShReg c sb rn rd rs ty rm s
  | .eorImm c sb rn rd rot imm => Sys2Proof.Machine.execEorImm c sb rn rd rot imm s
  | .eorShImm c sb rn rd amt ty rm => Sys2Proof.Machine.execEorShImm c sb rn rd amt ty rm s
  | .eorShReg c sb rn rd rs ty rm => Sys2Proof.Machine.execEorShReg c sb rn rd rs ty rm s
  | .subImm c sb rn rd rot imm => Sys2Proof.Machine.execSubImm c sb rn rd rot imm s
  | .subShImm c sb rn rd amt ty rm => Sys2Proof.Machine.execSubShImm c sb rn rd amt ty rm s
  | .subShReg c sb rn rd rs ty rm => Sys2Proof.Machine.execSubShReg c sb rn rd rs ty rm s
  | .rsbImm c sb rn rd rot imm => Sys2Proof.Machine.execRsbImm c sb rn rd rot imm s
  | .rsbShImm c sb rn rd amt ty rm => Sys2Proof.Machine.execRsbShImm c sb rn rd amt ty rm s
  | .rsbShReg c sb rn rd rs ty rm => Sys2Proof.Machine.execRsbShReg c sb rn rd rs ty rm s
  | .addImm c sb rn rd rot imm => Sys2Proof.Machine.execAddImm c sb rn rd rot imm s
  | .addShImm c sb rn rd amt ty rm => Sys2Proof.Machine.execAddShImm c sb rn rd amt ty rm s
  | .addShReg c sb rn rd rs ty rm => Sys2Proof.Machine.execAddShReg c sb rn rd rs ty rm s
  | .adcImm c sb rn rd rot imm => Sys2Proof.Machine.execAdcImm c sb rn rd rot imm s
  | .adcShImm c sb rn rd amt ty rm => Sys2Proof.Machine.execAdcShImm c sb rn rd amt ty rm s
  | .adcShReg c sb rn rd rs ty rm => Sys2Proof.Machine.execAdcShReg c sb rn rd rs ty rm s
  | .sbcImm c sb rn rd rot imm => Sys2Proof.Machine.execSbcImm c sb rn rd rot imm s
  | .sbcShImm c sb rn rd amt ty rm => Sys2Proof.Machine.execSbcShImm c sb rn rd amt ty rm s
  | .sbcShReg c sb rn rd rs ty rm => Sys2Proof.Machine.execSbcShReg c sb rn rd rs ty rm s
  | .rscImm c sb rn rd rot imm => Sys2Proof.Machine.execRscImm c sb rn rd rot imm s
  | .rscShImm c sb rn rd amt ty rm => Sys2Proof.Machine.execRscShImm c sb rn rd amt ty rm s
  | .rscShReg c sb rn rd rs ty rm => Sys2Proof.Machine.execRscShReg c sb rn rd rs ty rm s
  | .tstImm c rn rd rot imm => Sys2Proof.Machine.execTstImm c rn rd rot imm s
  | .tstShImm c rn rd amt ty rm => Sys2Proof.Machine.execTstShImm c rn rd amt ty rm s
  | .tstShReg c rn rd rs ty rm => Sys2Proof.Machine.execTstShReg c rn rd rs ty rm s
  | .teqImm c rn rd rot imm => Sys2Proof.Machine.execTeqImm c rn rd rot imm s
  | .teqShImm c rn rd amt ty rm => Sys2Proof.Machine.execTeqShImm c rn rd amt ty rm s
  | .teqShReg c rn rd rs ty rm => Sys2Proof.Machine.execTeqShReg c rn rd rs ty rm s
  | .cmpImm c rn rd rot imm => Sys2Proof.Machine.execCmpImm c rn rd rot imm s
  | .cmpShImm c rn rd amt ty rm => Sys2Proof.Machine.execCmpShImm c rn rd amt ty rm s
  | .cmpShReg c rn rd rs ty rm => Sys2Proof.Machine.execCmpShReg c rn rd rs ty rm s
  | .cmnImm c rn rd rot imm => Sys2Proof.Machine.execCmnImm c rn rd rot imm s
  | .cmnShImm c rn rd amt ty rm => Sys2Proof.Machine.execCmnShImm c rn rd amt ty rm s
  | .cmnShReg c rn rd rs ty rm => Sys2Proof.Machine.execCmnShReg c rn rd rs ty rm s
  | .orrImm c sb rn rd rot imm => Sys2Proof.Machine.execOrrImm c sb rn rd rot imm s
  | .orrShImm c sb rn rd amt ty rm => Sys2Proof.Machine.execOrrShImm c sb rn rd amt ty rm s
  | .orrShReg c sb rn rd rs ty rm => Sys2Proof.Machine.execOrrShReg c sb rn rd rs ty rm s
  | .movImm c sb rn rd rot imm => Sys2Proof.Machine.execMovImm c sb rn rd rot imm s
  | .movShImm c sb rn rd amt ty rm => Sys2Proof.Machine.execMovShImm c sb rn rd amt ty rm s
  | .movShReg c sb rn rd rs ty rm => Sys2Proof.Machine.execMovShReg c sb rn rd rs ty rm s
  | .bicImm c sb rn rd rot imm => Sys2Proof.Machine.execBicImm c sb rn rd rot imm s
  | .bicShImm c sb rn rd amt ty rm => Sys2Proof.Machine.execBicShImm c sb rn rd amt ty rm s
  | .bicShReg c sb rn rd rs ty rm => Sys2Proof.Machine.execBicShReg c sb rn rd rs ty rm s
  | .mvnImm c sb rn rd rot imm => Sys2Proof.Machine.execMvnImm c sb rn rd rot imm s
  | .mvnShImm c sb rn rd amt ty rm => Sys2Proof.Machine.execMvnShImm c sb rn rd amt ty rm s
  | .mvnShReg c sb rn rd rs ty rm => Sys2Proof.Machine.execMvnShReg c sb rn rd rs ty rm s
  | .mrs c ps rd => Sys2Proof.Machine.execMrs c ps rd s
  | .msrPsr c pd rm => Sys2Proof.Machine.execMsrPsr c pd rm s
  | .msrFlagsReg c pd rm => Sys2Proof.Machine.execMsrFlagsReg c pd rm s
  | .msrFlagsImm c pd rot imm => Sys2Proof.Machine.execMsrFlagsImm c pd rot imm s
  | .mul c sb rd rn rs rm => Sys2Proof.Machine.execMul c sb rd rn rs rm s
  | .mla c sb rd rn rs rm => Sys2Proof.Machine.execMla c sb rd rn rs rm s
  | .swp c rn rd rm _sbz => Sys2Proof.Machine.execSwp c rn rd rm s
  | .swpb c rn rd rm _sbz => Sys2Proof.Machine.execSwpb c rn rd rm s
  | .ldrImmPre c up w rn rd off => Sys2Proof.Machine.execLdrImmPre c up w rn rd off s
  | .ldrImmPost c up rn rd off => Sys2Proof.Machine.execLdrImmPost c up rn rd off s
  | .ldrRegPre c up w rn rd amt ty rm => Sys2Proof.Machine.execLdrRegPre c up w rn rd amt ty rm s
  | .ldrRegPost c up rn rd amt ty rm => Sys2Proof.Machine.execLdrRegPost c up rn rd amt ty rm s
  | .ldrbImmPre c up w rn rd off => Sys2Proof.Machine.execLdrbImmPre c up w rn rd off s
  | .ldrbImmPost c up rn rd off => Sys2Proof.Machine.execLdrbImmPost c up rn rd off s
  | .ldrbRegPre c up w rn rd amt ty rm => Sys2Proof.Machine.execLdrbRegPre c up w rn rd amt ty rm s
  | .ldrbRegPost c up rn rd amt ty rm => Sys2Proof.Machine.execLdrbRegPost c up rn rd amt ty rm s
  | .strImmPre c up w rn rd off => Sys2Proof.Machine.execStrImmPre c up w rn rd off s
  | .strImmPost c up rn rd off => Sys2Proof.Machine.execStrImmPost c up rn rd off s
  | .strRegPre c up w rn rd amt ty rm => Sys2Proof.Machine.execStrRegPre c up w rn rd amt ty rm s
  | .strRegPost c up rn rd amt ty rm => Sys2Proof.Machine.execStrRegPost c up rn rd amt ty rm s
  | .strbImmPre c up w rn rd off => Sys2Proof.Machine.execStrbImmPre c up w rn rd off s
  | .strbImmPost c up rn rd off => Sys2Proof.Machine.execStrbImmPost c up rn rd off s
  | .strbRegPre c up w rn rd amt ty rm => Sys2Proof.Machine.execStrbRegPre c up w rn rd amt ty rm s
  | .strbRegPost c up rn rd amt ty rm => Sys2Proof.Machine.execStrbRegPost c up rn rd amt ty rm s
  | .ldrtImm c up rn rd off => Sys2Proof.Machine.execLdrtImm c up rn rd off s
  | .ldrtReg c up rn rd amt ty rm => Sys2Proof.Machine.execLdrtReg c up rn rd amt ty rm s
  | .ldrbtImm c up rn rd off => Sys2Proof.Machine.execLdrbtImm c up rn rd off s
  | .ldrbtReg c up rn rd amt ty rm => Sys2Proof.Machine.execLdrbtReg c up rn rd amt ty rm s
  | .strtImm c up rn rd off => Sys2Proof.Machine.execStrtImm c up rn rd off s
  | .strtReg c up rn rd amt ty rm => Sys2Proof.Machine.execStrtReg c up rn rd amt ty rm s
  | .strbtImm c up rn rd off => Sys2Proof.Machine.execStrbtImm c up rn rd off s
  | .strbtReg c up rn rd amt ty rm => Sys2Proof.Machine.execStrbtReg c up rn rd amt ty rm s
  | .ldm c pre up w rn list => Sys2Proof.Machine.execLdm c pre up w rn list s
  | .ldmPc c pre up w rn list => Sys2Proof.Machine.execLdmPc c pre up w rn list s
  | .ldmPcRestore c pre up w rn list => Sys2Proof.Machine.execLdmPcRestore c pre up w rn list s
  | .ldmUser c pre up w rn list => Sys2Proof.Machine.execLdmUser c pre up w rn list s
  | .stm c pre up w rn list => Sys2Proof.Machine.execStm c pre up w rn list s
  | .stmUser c pre up w rn list => Sys2Proof.Machine.execStmUser c pre up w rn list s
  | .b c off => Sys2Proof.Machine.execB c off s
  | .bl c off => Sys2Proof.Machine.execBl c off s
  | .ldc c pre up n w rn crd cp off => Sys2Proof.Machine.execLdc c pre up n w rn crd cp off s
  | .stc c pre up n w rn crd cp off => Sys2Proof.Machine.execStc c pre up n w rn crd cp off s
  | .cdp c opc crn crd cp info crm => Sys2Proof.Machine.execCdp c opc crn crd cp info crm s
  | .mrc c opc crn rd cp info crm => Sys2Proof.Machine.execMrc c opc crn rd cp info crm s
  | .mcr c opc crn rd cp info crm => Sys2Proof.Machine.execMcr c opc crn rd cp info crm s
  | .mrcId c opc rd info crm => Sys2Proof.Machine.execMrcId c opc rd info crm s
  | .mcrControl c opc rd info crm => Sys2Proof.Machine.execMcrControl c opc rd info crm s
  | .mcrTtb c opc rd info crm => Sys2Proof.Machine.execMcrTtb c opc rd info crm s
  | .mcrDac c opc rd info crm => Sys2Proof.Machine.execMcrDac c opc rd info crm s
  | .mrcFsr c opc rd info crm => Sys2Proof.Machine.execMrcFsr c opc rd info crm s
  | .mcrFlushTlb c opc rd info crm => Sys2Proof.Machine.execMcrFlushTlb c opc rd info crm s
  | .mrcFar c opc rd info crm => Sys2Proof.Machine.execMrcFar c opc rd info crm s
  | .mcrPurgeTlb c opc rd info crm => Sys2Proof.Machine.execMcrPurgeTlb c opc rd info crm s
  | .mcrFlushIdc c opc rd info crm => Sys2Proof.Machine.execMcrFlushIdc c opc rd info crm s
  | .mcrC0 c opc rd info crm => Sys2Proof.Machine.execMcrC0 c opc rd info crm s
  | .mrcC1 c opc rd info crm => Sys2Proof.Machine.execMrcC1 c opc rd info crm s
  | .mrcC2 c opc rd info crm => Sys2Proof.Machine.execMrcC2 c opc rd info crm s
  | .mrcC3 c opc rd info crm => Sys2Proof.Machine.execMrcC3 c opc rd info crm s
  | .mrcC4 c opc rd info crm => Sys2Proof.Machine.execMrcC4 c opc rd info crm s
  | .mcrC4 c opc rd info crm => Sys2Proof.Machine.execMcrC4 c opc rd info crm s
  | .mrcC7 c opc rd info crm => Sys2Proof.Machine.execMrcC7 c opc rd info crm s
  | .mrcHigh c opc crn rd info crm => Sys2Proof.Machine.execMrcHigh c opc crn rd info crm s
  | .mcrHigh c opc crn rd info crm => Sys2Proof.Machine.execMcrHigh c opc crn rd info crm s
  | .swi c comment => Sys2Proof.Machine.execSwi c comment s
  | .undefined c hi lo => Sys2Proof.Machine.execUndefined c hi lo s

end Sys2Proof.Machine
end

