-- ==== Sys2Proof/WellFormed.lean ====
section
/-! DEFINITION. Which instruction terms stand for a word (`encodable`), and which of them keep the operand restrictions of
the spec that the word alone decides (`operandsAllowed`; file 93, U6 to U11, U13). -/

namespace Sys2Proof

/-- The register is not R15. -/
def notPc (r : RegNo) : Bool := r != 15#4

/-- The fields that Figure 5-1 leaves blank are zero (rule R411). -/
def fieldsZero (opc info : BitVec 3) (crm : BitVec 4) : Bool := opc == 0#3 && info == 0#3 && crm == 0#4

/-- Does the term stand for a word of its own?  An MRC or MCR of coprocessor 15 has constructors of its own (rules R395,
R396, R398). -/
def Instr.encodable (i : Instr) : Bool :=
  match i with
  | .andImm .. => true
  | .andShImm .. => true
  | .andShReg .. => true
  | .eorImm .. => true
  | .eorShImm .. => true
  | .eorShReg .. => true
  | .subImm .. => true
  | .subShImm .. => true
  | .subShReg .. => true
  | .rsbImm .. => true
  | .rsbShImm .. => true
  | .rsbShReg .. => true
  | .addImm .. => true
  | .addShImm .. => true
  | .addShReg .. => true
  | .adcImm .. => true
  | .adcShImm .. => true
  | .adcShReg .. => true
  | .sbcImm .. => true
  | .sbcShImm .. => true
  | .sbcShReg .. => true
  | .rscImm .. => true
  | .rscShImm .. => true
  | .rscShReg .. => true
  | .tstImm .. => true
  | .tstShImm .. => true
  | .tstShReg .. => true
  | .teqImm .. => true
  | .teqShImm .. => true
  | .teqShReg .. => true
  | .cmpImm .. => true
  | .cmpShImm .. => true
  | .cmpShReg .. => true
  | .cmnImm .. => true
  | .cmnShImm .. => true
  | .cmnShReg .. => true
  | .orrImm .. => true
  | .orrShImm .. => true
  | .orrShReg .. => true
  | .movImm .. => true
  | .movShImm .. => true
  | .movShReg .. => true
  | .bicImm .. => true
  | .bicShImm .. => true
  | .bicShReg .. => true
  | .mvnImm .. => true
  | .mvnShImm .. => true
  | .mvnShReg .. => true
  | .mrs .. => true
  | .msrPsr .. => true
  | .msrFlagsReg .. => true
  | .msrFlagsImm .. => true
  | .mul .. => true
  | .mla .. => true
  | .swp .. => true
  | .swpb .. => true
  | .ldrImmPre .. => true
  | .ldrImmPost .. => true
  | .ldrRegPre .. => true
  | .ldrRegPost .. => true
  | .ldrbImmPre .. => true
  | .ldrbImmPost .. => true
  | .ldrbRegPre .. => true
  | .ldrbRegPost .. => true
  | .strImmPre .. => true
  | .strImmPost .. => true
  | .strRegPre .. => true
  | .strRegPost .. => true
  | .strbImmPre .. => true
  | .strbImmPost .. => true
  | .strbRegPre .. => true
  | .strbRegPost .. => true
  | .ldrtImm .. => true
  | .ldrtReg .. => true
  | .ldrbtImm .. => true
  | .ldrbtReg .. => true
  | .strtImm .. => true
  | .strtReg .. => true
  | .strbtImm .. => true
  | .strbtReg .. => true
  | .ldm .. => true
  | .ldmPc .. => true
  | .ldmPcRestore .. => true
  | .ldmUser .. => true
  | .stm .. => true
  | .stmUser .. => true
  | .b .. => true
  | .bl .. => true
  | .ldc .. => true
  | .stc .. => true
  | .cdp .. => true
  | .mrc _ _ _ _ cp _ _ => cp != 15#4
  | .mcr _ _ _ _ cp _ _ => cp != 15#4
  | .mrcId .. => true
  | .mcrControl .. => true
  | .mcrTtb .. => true
  | .mcrDac .. => true
  | .mrcFsr .. => true
  | .mcrFlushTlb .. => true
  | .mrcFar .. => true
  | .mcrPurgeTlb .. => true
  | .mcrFlushIdc .. => true
  | .mcrC0 .. => true
  | .mrcC1 .. => true
  | .mrcC2 .. => true
  | .mrcC3 .. => true
  | .mrcC4 .. => true
  | .mcrC4 .. => true
  | .mrcC7 .. => true
  | .mrcHigh .. => true
  | .mcrHigh .. => true
  | .swi .. => true
  | .undefined .. => true

/-- Does the instruction keep the restrictions on its operands (rules R248, R291 to R294, R304, R322, R323, R350, R351, R353,
R373, R411)? -/
def Instr.operandsAllowed (i : Instr) : Bool :=
  match i with
  | .andImm .. => true
  | .andShImm .. => true
  | .andShReg _ _ _ _ rs _ _ => notPc rs
  | .eorImm .. => true
  | .eorShImm .. => true
  | .eorShReg _ _ _ _ rs _ _ => notPc rs
  | .subImm .. => true
  | .subShImm .. => true
  | .subShReg _ _ _ _ rs _ _ => notPc rs
  | .rsbImm .. => true
  | .rsbShImm .. => true
  | .rsbShReg _ _ _ _ rs _ _ => notPc rs
  | .addImm .. => true
  | .addShImm .. => true
  | .addShReg _ _ _ _ rs _ _ => notPc rs
  | .adcImm .. => true
  | .adcShImm .. => true
  | .adcShReg _ _ _ _ rs _ _ => notPc rs
  | .sbcImm .. => true
  | .sbcShImm .. => true
  | .sbcShReg _ _ _ _ rs _ _ => notPc rs
  | .rscImm .. => true
  | .rscShImm .. => true
  | .rscShReg _ _ _ _ rs _ _ => notPc rs
  | .tstImm .. => true
  | .tstShImm .. => true
  | .tstShReg _ _ _ rs _ _ => notPc rs
  | .teqImm .. => true
  | .teqShImm .. => true
  | .teqShReg _ _ _ rs _ _ => notPc rs
  | .cmpImm .. => true
  | .cmpShImm .. => true
  | .cmpShReg _ _ _ rs _ _ => notPc rs
  | .cmnImm .. => true
  | .cmnShImm .. => true
  | .cmnShReg _ _ _ rs _ _ => notPc rs
  | .orrImm .. => true
  | .orrShImm .. => true
  | .orrShReg _ _ _ _ rs _ _ => notPc rs
  | .movImm .. => true
  | .movShImm .. => true
  | .movShReg _ _ _ _ rs _ _ => notPc rs
  | .bicImm .. => true
  | .bicShImm .. => true
  | .bicShReg _ _ _ _ rs _ _ => notPc rs
  | .mvnImm .. => true
  | .mvnShImm .. => true
  | .mvnShReg _ _ _ _ rs _ _ => notPc rs
  | .mrs _ _ rd => notPc rd
  | .msrPsr _ _ rm => notPc rm
  | .msrFlagsReg _ _ rm => notPc rm
  | .msrFlagsImm .. => true
  | .mul _ _ rd _ rs rm => notPc rd && notPc rs && notPc rm
  | .mla _ _ rd rn rs rm => notPc rd && notPc rs && notPc rm && notPc rn
  | .swp _ rn rd rm _ => notPc rn && notPc rd && notPc rm
  | .swpb _ rn rd rm _ => notPc rn && notPc rd && notPc rm
  | .ldrImmPre _ _ w rn _ _ => (!w || notPc rn)
  | .ldrImmPost _ _ rn _ _ => notPc rn
  | .ldrRegPre _ _ w rn _ _ _ rm => (!w || notPc rn) && notPc rm
  | .ldrRegPost _ _ rn _ _ _ rm => notPc rn && notPc rm && rm != rn
  | .ldrbImmPre _ _ w rn _ _ => (!w || notPc rn)
  | .ldrbImmPost _ _ rn _ _ => notPc rn
  | .ldrbRegPre _ _ w rn _ _ _ rm => (!w || notPc rn) && notPc rm
  | .ldrbRegPost _ _ rn _ _ _ rm => notPc rn && notPc rm && rm != rn
  | .strImmPre _ _ w rn _ _ => (!w || notPc rn)
  | .strImmPost _ _ rn _ _ => notPc rn
  | .strRegPre _ _ w rn _ _ _ rm => (!w || notPc rn) && notPc rm
  | .strRegPost _ _ rn _ _ _ rm => notPc rn && notPc rm && rm != rn
  | .strbImmPre _ _ w rn _ _ => (!w || notPc rn)
  | .strbImmPost _ _ rn _ _ => notPc rn
  | .strbRegPre _ _ w rn _ _ _ rm => (!w || notPc rn) && notPc rm
  | .strbRegPost _ _ rn _ _ _ rm => notPc rn && notPc rm && rm != rn
  | .ldrtImm _ _ rn _ _ => notPc rn
  | .ldrtReg _ _ rn _ _ _ rm => notPc rn && notPc rm && rm != rn
  | .ldrbtImm _ _ rn _ _ => notPc rn
  | .ldrbtReg _ _ rn _ _ _ rm => notPc rn && notPc rm && rm != rn
  | .strtImm _ _ rn _ _ => notPc rn
  | .strtReg _ _ rn _ _ _ rm => notPc rn && notPc rm && rm != rn
  | .strbtImm _ _ rn _ _ => notPc rn
  | .strbtReg _ _ rn _ _ _ rm => notPc rn && notPc rm && rm != rn
  | .ldm _ _ _ _ rn list => notPc rn && list != 0#15
  | .ldmPc _ _ _ _ rn _ => notPc rn
  | .ldmPcRestore _ _ _ _ rn _ => notPc rn
  | .ldmUser _ _ _ w rn list => notPc rn && list != 0#15 && !w
  | .stm _ _ _ _ rn list => notPc rn && list != 0#16
  | .stmUser _ _ _ w rn list => notPc rn && list != 0#16 && !w
  | .b .. => true
  | .bl .. => true
  | .ldc .. => true
  | .stc .. => true
  | .cdp .. => true
  | .mrc .. => true
  | .mcr .. => true
  | .mrcId _ opc _ info crm => fieldsZero opc info crm
  | .mcrControl _ opc _ info crm => fieldsZero opc info crm
  | .mcrTtb _ opc _ info crm => fieldsZero opc info crm
  | .mcrDac _ opc _ info crm => fieldsZero opc info crm
  | .mrcFsr _ opc _ info crm => fieldsZero opc info crm
  | .mcrFlushTlb _ opc _ info crm => fieldsZero opc info crm
  | .mrcFar _ opc _ info crm => fieldsZero opc info crm
  | .mcrPurgeTlb _ opc _ info crm => fieldsZero opc info crm
  | .mcrFlushIdc _ opc _ info crm => fieldsZero opc info crm
  | .mcrC0 _ opc _ info crm => fieldsZero opc info crm
  | .mrcC1 _ opc _ info crm => fieldsZero opc info crm
  | .mrcC2 _ opc _ info crm => fieldsZero opc info crm
  | .mrcC3 _ opc _ info crm => fieldsZero opc info crm
  | .mrcC4 _ opc _ info crm => fieldsZero opc info crm
  | .mcrC4 _ opc _ info crm => fieldsZero opc info crm
  | .mrcC7 _ opc _ info crm => fieldsZero opc info crm
  | .mrcHigh .. => true
  | .mcrHigh .. => true
  | .swi .. => true
  | .undefined .. => true

/-- A term that stands for a word and keeps the operand restrictions. -/
def Instr.wellFormed (i : Instr) : Bool := i.encodable && i.operandsAllowed

end Sys2Proof
end

