-- ==== Sys2Proof/Decode.lean ====
section
/-! DEFINITION. The decoder (rule R200), total on any word and on any bytes, and the encoder, written from the same encoding
tables (rules R183 to R196). -/

namespace Sys2Proof

/-- The field `w[lo + len - 1 : lo]` (rule R10). -/
def field (w : Word) (lo len : Nat) : BitVec len := BitVec.ofNat len (w.toNat / 2 ^ lo)

/-- A one-bit field. -/
def flag (w : Word) (i : Nat) : Bool := field w i 1 == 1#1

/-- The condition a field value names (rule R230). -/
def Cond.ofBits (b : BitVec 4) : Cond :=
  match b.toNat with
  | 0 => .eq | 1 => .ne | 2 => .cs | 3 => .cc | 4 => .mi | 5 => .pl | 6 => .vs | 7 => .vc | 8 => .hi | 9 => .ls
  | 10 => .ge | 11 => .lt | 12 => .gt | 13 => .le | 14 => .al | _ => .nv

/-- The shift type a field value names (rule R185). -/
def ShiftType.ofBits (b : BitVec 2) : ShiftType :=
  match b.toNat with
  | 0 => .lsl | 1 => .lsr | 2 => .asr | _ => .ror

/-- The PSR a selector bit names (rule R186). -/
def PsrSel.ofBit (b : Bool) : PsrSel := if b then .spsr else .cpsr

/-- The condition field (rule R181). -/
def condOf (w : Word) : Cond := Cond.ofBits (field w 28 4)

/-- Data processing with a rotated immediate, OpCode b[24:21] (rules R183, R184). -/
def decodeDpImm (w : Word) (c : Cond) (s : Bool) (rn rd : RegNo) (rot : BitVec 4) (imm : BitVec 8) : Instr :=
  match (field w 21 4).toNat with
  | 0 => .andImm c s rn rd rot imm
  | 1 => .eorImm c s rn rd rot imm
  | 2 => .subImm c s rn rd rot imm
  | 3 => .rsbImm c s rn rd rot imm
  | 4 => .addImm c s rn rd rot imm
  | 5 => .adcImm c s rn rd rot imm
  | 6 => .sbcImm c s rn rd rot imm
  | 7 => .rscImm c s rn rd rot imm
  | 8 => .tstImm c rn rd rot imm
  | 9 => .teqImm c rn rd rot imm
  | 10 => .cmpImm c rn rd rot imm
  | 11 => .cmnImm c rn rd rot imm
  | 12 => .orrImm c s rn rd rot imm
  | 13 => .movImm c s rn rd rot imm
  | 14 => .bicImm c s rn rd rot imm
  | _ => .mvnImm c s rn rd rot imm

/-- Data processing with a shift amount in the instruction (rules R183 to R185). -/
def decodeDpShImm (w : Word) (c : Cond) (s : Bool) (rn rd : RegNo) (amt : BitVec 5) (ty : ShiftType) (rm : RegNo) :
    Instr :=
  match (field w 21 4).toNat with
  | 0 => .andShImm c s rn rd amt ty rm
  | 1 => .eorShImm c s rn rd amt ty rm
  | 2 => .subShImm c s rn rd amt ty rm
  | 3 => .rsbShImm c s rn rd amt ty rm
  | 4 => .addShImm c s rn rd amt ty rm
  | 5 => .adcShImm c s rn rd amt ty rm
  | 6 => .sbcShImm c s rn rd amt ty rm
  | 7 => .rscShImm c s rn rd amt ty rm
  | 8 => .tstShImm c rn rd amt ty rm
  | 9 => .teqShImm c rn rd amt ty rm
  | 10 => .cmpShImm c rn rd amt ty rm
  | 11 => .cmnShImm c rn rd amt ty rm
  | 12 => .orrShImm c s rn rd amt ty rm
  | 13 => .movShImm c s rn rd amt ty rm
  | 14 => .bicShImm c s rn rd amt ty rm
  | _ => .mvnShImm c s rn rd amt ty rm

/-- Data processing with a shift amount in a register (rules R183 to R185). -/
def decodeDpShReg (w : Word) (c : Cond) (s : Bool) (rn rd rs : RegNo) (ty : ShiftType) (rm : RegNo) : Instr :=
  match (field w 21 4).toNat with
  | 0 => .andShReg c s rn rd rs ty rm
  | 1 => .eorShReg c s rn rd rs ty rm
  | 2 => .subShReg c s rn rd rs ty rm
  | 3 => .rsbShReg c s rn rd rs ty rm
  | 4 => .addShReg c s rn rd rs ty rm
  | 5 => .adcShReg c s rn rd rs ty rm
  | 6 => .sbcShReg c s rn rd rs ty rm
  | 7 => .rscShReg c s rn rd rs ty rm
  | 8 => .tstShReg c rn rd rs ty rm
  | 9 => .teqShReg c rn rd rs ty rm
  | 10 => .cmpShReg c rn rd rs ty rm
  | 11 => .cmnShReg c rn rd rs ty rm
  | 12 => .orrShReg c s rn rd rs ty rm
  | 13 => .movShReg c s rn rd rs ty rm
  | 14 => .bicShReg c s rn rd rs ty rm
  | _ => .mvnShReg c s rn rd rs ty rm

/-- b[27:25] = 000 with bits 7 and 4 set: MUL, MLA, SWP, SWPB, or not defined (rules R200, R201 (a)).  Bits [11:8] of SWP
and SWPB, which R200 writes as 0000, are ignored by the decoder, as ruling U15 of file 93 has it (log entry 36). -/
def decodeMultiplySwap (w : Word) (c : Cond) : Except DecodeReject Instr :=
  if field w 5 2 = 0#2 ∧ field w 22 3 = 0#3 then
    if flag w 21 then .ok (.mla c (flag w 20) (field w 16 4) (field w 12 4) (field w 8 4) (field w 0 4))
    else .ok (.mul c (flag w 20) (field w 16 4) (field w 12 4) (field w 8 4) (field w 0 4))
  else if field w 5 2 = 0#2 ∧ field w 23 2 = 2#2 ∧ field w 20 2 = 0#2 then
    if flag w 22 then .ok (.swpb c (field w 16 4) (field w 12 4) (field w 0 4) (field w 8 4))
    else .ok (.swp c (field w 16 4) (field w 12 4) (field w 0 4) (field w 8 4))
  else .error .multiplySpace

/-- b[27:25] = 000, a test opcode with S = 0: MRS, MSR, or not defined (rules R186, R200, R201 (b)). -/
def decodePsrRegister (w : Word) (c : Cond) : Except DecodeReject Instr :=
  if field w 16 6 = 0b001111#6 ∧ field w 0 12 = 0#12 then .ok (.mrs c (PsrSel.ofBit (flag w 22)) (field w 12 4))
  else if field w 12 10 = 0b1010011111#10 ∧ field w 4 8 = 0#8 then
    .ok (.msrPsr c (PsrSel.ofBit (flag w 22)) (field w 0 4))
  else if field w 12 10 = 0b1010001111#10 ∧ field w 4 8 = 0#8 then
    .ok (.msrFlagsReg c (PsrSel.ofBit (flag w 22)) (field w 0 4))
  else .error .psrTransferSpace

/-- b[27:25] = 000 (rule R200). -/
def decodeClass0 (w : Word) (c : Cond) : Except DecodeReject Instr :=
  if flag w 7 && flag w 4 then decodeMultiplySwap w c
  else if field w 23 2 = 2#2 ∧ field w 20 1 = 0#1 then decodePsrRegister w c
  else if flag w 4 then
    .ok (decodeDpShReg w c (flag w 20) (field w 16 4) (field w 12 4) (field w 8 4) (ShiftType.ofBits (field w 5 2))
      (field w 0 4))
  else
    .ok (decodeDpShImm w c (flag w 20) (field w 16 4) (field w 12 4) (field w 7 5) (ShiftType.ofBits (field w 5 2))
      (field w 0 4))

/-- b[27:25] = 001 (rule R200). -/
def decodeClass1 (w : Word) (c : Cond) : Except DecodeReject Instr :=
  if field w 23 2 = 2#2 ∧ field w 20 1 = 0#1 then
    if field w 12 10 = 0b1010001111#10 then
      .ok (.msrFlagsImm c (PsrSel.ofBit (flag w 22)) (field w 8 4) (field w 0 8))
    else .error .psrTransferSpace
  else .ok (decodeDpImm w c (flag w 20) (field w 16 4) (field w 12 4) (field w 8 4) (field w 0 8))

/-- b[27:25] = 010: a single transfer with an immediate offset; the P, W, B and L bits select the instruction (rules R189,
R310). -/
def decodeTransferImm (p b w l : Bool) (c : Cond) (up : Bool) (rn rd : RegNo) (off : BitVec 12) : Instr :=
  match p, b, l with
  | true, false, true => .ldrImmPre c up w rn rd off
  | true, false, false => .strImmPre c up w rn rd off
  | true, true, true => .ldrbImmPre c up w rn rd off
  | true, true, false => .strbImmPre c up w rn rd off
  | false, false, true => if w then .ldrtImm c up rn rd off else .ldrImmPost c up rn rd off
  | false, false, false => if w then .strtImm c up rn rd off else .strImmPost c up rn rd off
  | false, true, true => if w then .ldrbtImm c up rn rd off else .ldrbImmPost c up rn rd off
  | false, true, false => if w then .strbtImm c up rn rd off else .strbImmPost c up rn rd off

/-- b[27:25] = 011 with bit 4 clear: a single transfer with a register offset (rules R189, R310). -/
def decodeTransferReg (p b w l : Bool) (c : Cond) (up : Bool) (rn rd : RegNo) (amt : BitVec 5) (ty : ShiftType)
    (rm : RegNo) : Instr :=
  match p, b, l with
  | true, false, true => .ldrRegPre c up w rn rd amt ty rm
  | true, false, false => .strRegPre c up w rn rd amt ty rm
  | true, true, true => .ldrbRegPre c up w rn rd amt ty rm
  | true, true, false => .strbRegPre c up w rn rd amt ty rm
  | false, false, true => if w then .ldrtReg c up rn rd amt ty rm else .ldrRegPost c up rn rd amt ty rm
  | false, false, false => if w then .strtReg c up rn rd amt ty rm else .strRegPost c up rn rd amt ty rm
  | false, true, true => if w then .ldrbtReg c up rn rd amt ty rm else .ldrbRegPost c up rn rd amt ty rm
  | false, true, false => if w then .strbtReg c up rn rd amt ty rm else .strbRegPost c up rn rd amt ty rm

/-- b[27:25] = 100: LDM and STM; L, S and the R15 bit of the list select the instruction (rules R191, R349). -/
def decodeBlock (w : Word) (c : Cond) : Instr :=
  if flag w 20 then
    if flag w 22 then
      if flag w 15 then .ldmPcRestore c (flag w 24) (flag w 23) (flag w 21) (field w 16 4) (field w 0 15)
      else .ldmUser c (flag w 24) (flag w 23) (flag w 21) (field w 16 4) (field w 0 15)
    else if flag w 15 then .ldmPc c (flag w 24) (flag w 23) (flag w 21) (field w 16 4) (field w 0 15)
    else .ldm c (flag w 24) (flag w 23) (flag w 21) (field w 16 4) (field w 0 15)
  else if flag w 22 then .stmUser c (flag w 24) (flag w 23) (flag w 21) (field w 16 4) (field w 0 16)
  else .stm c (flag w 24) (flag w 23) (flag w 21) (field w 16 4) (field w 0 16)

/-- MRC from coprocessor 15: CRn selects the register (rules R50, R398). -/
def decodeMrc15 (w : Word) (c : Cond) (opc : BitVec 3) (rd : RegNo) (info : BitVec 3) (crm : BitVec 4) : Instr :=
  match (field w 16 4).toNat with
  | 0 => .mrcId c opc rd info crm
  | 1 => .mrcC1 c opc rd info crm
  | 2 => .mrcC2 c opc rd info crm
  | 3 => .mrcC3 c opc rd info crm
  | 4 => .mrcC4 c opc rd info crm
  | 5 => .mrcFsr c opc rd info crm
  | 6 => .mrcFar c opc rd info crm
  | 7 => .mrcC7 c opc rd info crm
  | _ => .mrcHigh c opc (field w 16 3) rd info crm

/-- MCR to coprocessor 15: CRn selects the register (rules R50, R398). -/
def decodeMcr15 (w : Word) (c : Cond) (opc : BitVec 3) (rd : RegNo) (info : BitVec 3) (crm : BitVec 4) : Instr :=
  match (field w 16 4).toNat with
  | 0 => .mcrC0 c opc rd info crm
  | 1 => .mcrControl c opc rd info crm
  | 2 => .mcrTtb c opc rd info crm
  | 3 => .mcrDac c opc rd info crm
  | 4 => .mcrC4 c opc rd info crm
  | 5 => .mcrFlushTlb c opc rd info crm
  | 6 => .mcrPurgeTlb c opc rd info crm
  | 7 => .mcrFlushIdc c opc rd info crm
  | _ => .mcrHigh c opc (field w 16 3) rd info crm

/-- b[27:24] = 1110: CDP, MRC and MCR (rules R194, R195, R200). -/
def decodeCoprocessor (w : Word) (c : Cond) : Instr :=
  if flag w 4 then
    if field w 8 4 = 15#4 then
      if flag w 20 then decodeMrc15 w c (field w 21 3) (field w 12 4) (field w 5 3) (field w 0 4)
      else decodeMcr15 w c (field w 21 3) (field w 12 4) (field w 5 3) (field w 0 4)
    else if flag w 20 then
      .mrc c (field w 21 3) (field w 16 4) (field w 12 4) (field w 8 4) (field w 5 3) (field w 0 4)
    else .mcr c (field w 21 3) (field w 16 4) (field w 12 4) (field w 8 4) (field w 5 3) (field w 0 4)
  else .cdp c (field w 20 4) (field w 16 4) (field w 12 4) (field w 8 4) (field w 5 3) (field w 0 4)

/-- The instruction a word is, or why it is none (rules R200, R201). -/
def decode (w : Word) : Except DecodeReject Instr :=
  match (field w 25 3).toNat with
  | 0 => decodeClass0 w (condOf w)
  | 1 => decodeClass1 w (condOf w)
  | 2 =>
    .ok (decodeTransferImm (flag w 24) (flag w 22) (flag w 21) (flag w 20) (condOf w) (flag w 23) (field w 16 4)
      (field w 12 4) (field w 0 12))
  | 3 =>
    if flag w 4 then .ok (.undefined (condOf w) (field w 5 20) (field w 0 4))
    else
      .ok (decodeTransferReg (flag w 24) (flag w 22) (flag w 21) (flag w 20) (condOf w) (flag w 23) (field w 16 4)
        (field w 12 4) (field w 7 5) (ShiftType.ofBits (field w 5 2)) (field w 0 4))
  | 4 => .ok (decodeBlock w (condOf w))
  | 5 => if flag w 24 then .ok (.bl (condOf w) (field w 0 24)) else .ok (.b (condOf w) (field w 0 24))
  | 6 =>
    if flag w 20 then
      .ok (.ldc (condOf w) (flag w 24) (flag w 23) (flag w 22) (flag w 21) (field w 16 4) (field w 12 4) (field w 8 4)
        (field w 0 8))
    else
      .ok (.stc (condOf w) (flag w 24) (flag w 23) (flag w 22) (flag w 21) (field w 16 4) (field w 12 4) (field w 8 4)
        (field w 0 8))
  | _ =>
    if flag w 24 then .ok (.swi (condOf w) (field w 0 24)) else .ok (decodeCoprocessor w (condOf w))

/-- The bus word of four bytes, the first on lane 0, and the bytes that follow; a missing byte is none (rule R84: the
little-endian order, which is that of the lanes). -/
def takeWord (bytes : List Byte) : Option (Word × List Byte) :=
  match bytes with
  | b0 :: b1 :: b2 :: b3 :: rest => some ((b3 ++ b2 ++ b1 ++ b0 : BitVec 32), rest)
  | _ => none

/-- The instruction at the head of a list of bytes, with the rest (rule R180); none where a word is missing or is no
instruction. -/
def decodeBytes (bytes : List Byte) : Option (Instr × List Byte) :=
  match takeWord bytes with
  | none => none
  | some (w, rest) =>
    match decode w with
    | .ok i => some (i, rest)
    | .error _ => none

/-- The four bytes of a word, lane 0 first. -/
def wordBytes (w : Word) : List Byte := [field w 0 8, field w 8 8, field w 16 8, field w 24 8]

/-- The word of which the table gives the low `nbits` bits. -/
def tableWord (nbits w : Nat) : Word := BitVec.ofNat 32 (w % 2 ^ nbits)

/-- The instruction the decoder reads from a row of the opcode table. -/
def decodeTableWord (nbits w : Nat) : Option Instr :=
  (decodeBytes (wordBytes (tableWord nbits w))).map fun r => r.1

/-- A field value at its place in the word. -/
def put {n : Nat} (lo : Nat) (v : BitVec n) : Nat := v.toNat * 2 ^ lo

/-- The word of an encodable instruction (rules R183 to R196, R233, R234). -/
def encode (i : Instr) : Word :=
  match i with
  | .andImm c s rn rd rot imm =>
    BitVec.ofNat 32 (put 28 c.bits + put 25 0b001#3 + put 21 0#4 +
      put 20 (BitVec.ofBool s) + put 16 rn + put 12 rd + put 8 rot + put 0 imm)
  | .andShImm c s rn rd amt ty rm =>
    BitVec.ofNat 32 (put 28 c.bits + put 25 0b000#3 + put 21 0#4 +
      put 20 (BitVec.ofBool s) + put 16 rn + put 12 rd + put 7 amt + put 5 ty.bits + put 4 0#1 + put 0 rm)
  | .andShReg c s rn rd rs ty rm =>
    BitVec.ofNat 32 (put 28 c.bits + put 25 0b000#3 + put 21 0#4 +
      put 20 (BitVec.ofBool s) + put 16 rn + put 12 rd + put 8 rs + put 7 0#1 + put 5 ty.bits + put 4 1#1 + put 0 rm)
  | .eorImm c s rn rd rot imm =>
    BitVec.ofNat 32 (put 28 c.bits + put 25 0b001#3 + put 21 1#4 +
      put 20 (BitVec.ofBool s) + put 16 rn + put 12 rd + put 8 rot + put 0 imm)
  | .eorShImm c s rn rd amt ty rm =>
    BitVec.ofNat 32 (put 28 c.bits + put 25 0b000#3 + put 21 1#4 +
      put 20 (BitVec.ofBool s) + put 16 rn + put 12 rd + put 7 amt + put 5 ty.bits + put 4 0#1 + put 0 rm)
  | .eorShReg c s rn rd rs ty rm =>
    BitVec.ofNat 32 (put 28 c.bits + put 25 0b000#3 + put 21 1#4 +
      put 20 (BitVec.ofBool s) + put 16 rn + put 12 rd + put 8 rs + put 7 0#1 + put 5 ty.bits + put 4 1#1 + put 0 rm)
  | .subImm c s rn rd rot imm =>
    BitVec.ofNat 32 (put 28 c.bits + put 25 0b001#3 + put 21 2#4 +
      put 20 (BitVec.ofBool s) + put 16 rn + put 12 rd + put 8 rot + put 0 imm)
  | .subShImm c s rn rd amt ty rm =>
    BitVec.ofNat 32 (put 28 c.bits + put 25 0b000#3 + put 21 2#4 +
      put 20 (BitVec.ofBool s) + put 16 rn + put 12 rd + put 7 amt + put 5 ty.bits + put 4 0#1 + put 0 rm)
  | .subShReg c s rn rd rs ty rm =>
    BitVec.ofNat 32 (put 28 c.bits + put 25 0b000#3 + put 21 2#4 +
      put 20 (BitVec.ofBool s) + put 16 rn + put 12 rd + put 8 rs + put 7 0#1 + put 5 ty.bits + put 4 1#1 + put 0 rm)
  | .rsbImm c s rn rd rot imm =>
    BitVec.ofNat 32 (put 28 c.bits + put 25 0b001#3 + put 21 3#4 +
      put 20 (BitVec.ofBool s) + put 16 rn + put 12 rd + put 8 rot + put 0 imm)
  | .rsbShImm c s rn rd amt ty rm =>
    BitVec.ofNat 32 (put 28 c.bits + put 25 0b000#3 + put 21 3#4 +
      put 20 (BitVec.ofBool s) + put 16 rn + put 12 rd + put 7 amt + put 5 ty.bits + put 4 0#1 + put 0 rm)
  | .rsbShReg c s rn rd rs ty rm =>
    BitVec.ofNat 32 (put 28 c.bits + put 25 0b000#3 + put 21 3#4 +
      put 20 (BitVec.ofBool s) + put 16 rn + put 12 rd + put 8 rs + put 7 0#1 + put 5 ty.bits + put 4 1#1 + put 0 rm)
  | .addImm c s rn rd rot imm =>
    BitVec.ofNat 32 (put 28 c.bits + put 25 0b001#3 + put 21 4#4 +
      put 20 (BitVec.ofBool s) + put 16 rn + put 12 rd + put 8 rot + put 0 imm)
  | .addShImm c s rn rd amt ty rm =>
    BitVec.ofNat 32 (put 28 c.bits + put 25 0b000#3 + put 21 4#4 +
      put 20 (BitVec.ofBool s) + put 16 rn + put 12 rd + put 7 amt + put 5 ty.bits + put 4 0#1 + put 0 rm)
  | .addShReg c s rn rd rs ty rm =>
    BitVec.ofNat 32 (put 28 c.bits + put 25 0b000#3 + put 21 4#4 +
      put 20 (BitVec.ofBool s) + put 16 rn + put 12 rd + put 8 rs + put 7 0#1 + put 5 ty.bits + put 4 1#1 + put 0 rm)
  | .adcImm c s rn rd rot imm =>
    BitVec.ofNat 32 (put 28 c.bits + put 25 0b001#3 + put 21 5#4 +
      put 20 (BitVec.ofBool s) + put 16 rn + put 12 rd + put 8 rot + put 0 imm)
  | .adcShImm c s rn rd amt ty rm =>
    BitVec.ofNat 32 (put 28 c.bits + put 25 0b000#3 + put 21 5#4 +
      put 20 (BitVec.ofBool s) + put 16 rn + put 12 rd + put 7 amt + put 5 ty.bits + put 4 0#1 + put 0 rm)
  | .adcShReg c s rn rd rs ty rm =>
    BitVec.ofNat 32 (put 28 c.bits + put 25 0b000#3 + put 21 5#4 +
      put 20 (BitVec.ofBool s) + put 16 rn + put 12 rd + put 8 rs + put 7 0#1 + put 5 ty.bits + put 4 1#1 + put 0 rm)
  | .sbcImm c s rn rd rot imm =>
    BitVec.ofNat 32 (put 28 c.bits + put 25 0b001#3 + put 21 6#4 +
      put 20 (BitVec.ofBool s) + put 16 rn + put 12 rd + put 8 rot + put 0 imm)
  | .sbcShImm c s rn rd amt ty rm =>
    BitVec.ofNat 32 (put 28 c.bits + put 25 0b000#3 + put 21 6#4 +
      put 20 (BitVec.ofBool s) + put 16 rn + put 12 rd + put 7 amt + put 5 ty.bits + put 4 0#1 + put 0 rm)
  | .sbcShReg c s rn rd rs ty rm =>
    BitVec.ofNat 32 (put 28 c.bits + put 25 0b000#3 + put 21 6#4 +
      put 20 (BitVec.ofBool s) + put 16 rn + put 12 rd + put 8 rs + put 7 0#1 + put 5 ty.bits + put 4 1#1 + put 0 rm)
  | .rscImm c s rn rd rot imm =>
    BitVec.ofNat 32 (put 28 c.bits + put 25 0b001#3 + put 21 7#4 +
      put 20 (BitVec.ofBool s) + put 16 rn + put 12 rd + put 8 rot + put 0 imm)
  | .rscShImm c s rn rd amt ty rm =>
    BitVec.ofNat 32 (put 28 c.bits + put 25 0b000#3 + put 21 7#4 +
      put 20 (BitVec.ofBool s) + put 16 rn + put 12 rd + put 7 amt + put 5 ty.bits + put 4 0#1 + put 0 rm)
  | .rscShReg c s rn rd rs ty rm =>
    BitVec.ofNat 32 (put 28 c.bits + put 25 0b000#3 + put 21 7#4 +
      put 20 (BitVec.ofBool s) + put 16 rn + put 12 rd + put 8 rs + put 7 0#1 + put 5 ty.bits + put 4 1#1 + put 0 rm)
  | .tstImm c rn rd rot imm =>
    BitVec.ofNat 32 (put 28 c.bits + put 25 0b001#3 + put 21 8#4 + put 20 1#1 +
      put 16 rn + put 12 rd + put 8 rot + put 0 imm)
  | .tstShImm c rn rd amt ty rm =>
    BitVec.ofNat 32 (put 28 c.bits + put 25 0b000#3 + put 21 8#4 + put 20 1#1 +
      put 16 rn + put 12 rd + put 7 amt + put 5 ty.bits + put 4 0#1 + put 0 rm)
  | .tstShReg c rn rd rs ty rm =>
    BitVec.ofNat 32 (put 28 c.bits + put 25 0b000#3 + put 21 8#4 + put 20 1#1 +
      put 16 rn + put 12 rd + put 8 rs + put 7 0#1 + put 5 ty.bits + put 4 1#1 + put 0 rm)
  | .teqImm c rn rd rot imm =>
    BitVec.ofNat 32 (put 28 c.bits + put 25 0b001#3 + put 21 9#4 + put 20 1#1 +
      put 16 rn + put 12 rd + put 8 rot + put 0 imm)
  | .teqShImm c rn rd amt ty rm =>
    BitVec.ofNat 32 (put 28 c.bits + put 25 0b000#3 + put 21 9#4 + put 20 1#1 +
      put 16 rn + put 12 rd + put 7 amt + put 5 ty.bits + put 4 0#1 + put 0 rm)
  | .teqShReg c rn rd rs ty rm =>
    BitVec.ofNat 32 (put 28 c.bits + put 25 0b000#3 + put 21 9#4 + put 20 1#1 +
      put 16 rn + put 12 rd + put 8 rs + put 7 0#1 + put 5 ty.bits + put 4 1#1 + put 0 rm)
  | .cmpImm c rn rd rot imm =>
    BitVec.ofNat 32 (put 28 c.bits + put 25 0b001#3 + put 21 10#4 + put 20 1#1 +
      put 16 rn + put 12 rd + put 8 rot + put 0 imm)
  | .cmpShImm c rn rd amt ty rm =>
    BitVec.ofNat 32 (put 28 c.bits + put 25 0b000#3 + put 21 10#4 + put 20 1#1 +
      put 16 rn + put 12 rd + put 7 amt + put 5 ty.bits + put 4 0#1 + put 0 rm)
  | .cmpShReg c rn rd rs ty rm =>
    BitVec.ofNat 32 (put 28 c.bits + put 25 0b000#3 + put 21 10#4 + put 20 1#1 +
      put 16 rn + put 12 rd + put 8 rs + put 7 0#1 + put 5 ty.bits + put 4 1#1 + put 0 rm)
  | .cmnImm c rn rd rot imm =>
    BitVec.ofNat 32 (put 28 c.bits + put 25 0b001#3 + put 21 11#4 + put 20 1#1 +
      put 16 rn + put 12 rd + put 8 rot + put 0 imm)
  | .cmnShImm c rn rd amt ty rm =>
    BitVec.ofNat 32 (put 28 c.bits + put 25 0b000#3 + put 21 11#4 + put 20 1#1 +
      put 16 rn + put 12 rd + put 7 amt + put 5 ty.bits + put 4 0#1 + put 0 rm)
  | .cmnShReg c rn rd rs ty rm =>
    BitVec.ofNat 32 (put 28 c.bits + put 25 0b000#3 + put 21 11#4 + put 20 1#1 +
      put 16 rn + put 12 rd + put 8 rs + put 7 0#1 + put 5 ty.bits + put 4 1#1 + put 0 rm)
  | .orrImm c s rn rd rot imm =>
    BitVec.ofNat 32 (put 28 c.bits + put 25 0b001#3 + put 21 12#4 +
      put 20 (BitVec.ofBool s) + put 16 rn + put 12 rd + put 8 rot + put 0 imm)
  | .orrShImm c s rn rd amt ty rm =>
    BitVec.ofNat 32 (put 28 c.bits + put 25 0b000#3 + put 21 12#4 +
      put 20 (BitVec.ofBool s) + put 16 rn + put 12 rd + put 7 amt + put 5 ty.bits + put 4 0#1 + put 0 rm)
  | .orrShReg c s rn rd rs ty rm =>
    BitVec.ofNat 32 (put 28 c.bits + put 25 0b000#3 + put 21 12#4 +
      put 20 (BitVec.ofBool s) + put 16 rn + put 12 rd + put 8 rs + put 7 0#1 + put 5 ty.bits + put 4 1#1 + put 0 rm)
  | .movImm c s rn rd rot imm =>
    BitVec.ofNat 32 (put 28 c.bits + put 25 0b001#3 + put 21 13#4 +
      put 20 (BitVec.ofBool s) + put 16 rn + put 12 rd + put 8 rot + put 0 imm)
  | .movShImm c s rn rd amt ty rm =>
    BitVec.ofNat 32 (put 28 c.bits + put 25 0b000#3 + put 21 13#4 +
      put 20 (BitVec.ofBool s) + put 16 rn + put 12 rd + put 7 amt + put 5 ty.bits + put 4 0#1 + put 0 rm)
  | .movShReg c s rn rd rs ty rm =>
    BitVec.ofNat 32 (put 28 c.bits + put 25 0b000#3 + put 21 13#4 +
      put 20 (BitVec.ofBool s) + put 16 rn + put 12 rd + put 8 rs + put 7 0#1 + put 5 ty.bits + put 4 1#1 + put 0 rm)
  | .bicImm c s rn rd rot imm =>
    BitVec.ofNat 32 (put 28 c.bits + put 25 0b001#3 + put 21 14#4 +
      put 20 (BitVec.ofBool s) + put 16 rn + put 12 rd + put 8 rot + put 0 imm)
  | .bicShImm c s rn rd amt ty rm =>
    BitVec.ofNat 32 (put 28 c.bits + put 25 0b000#3 + put 21 14#4 +
      put 20 (BitVec.ofBool s) + put 16 rn + put 12 rd + put 7 amt + put 5 ty.bits + put 4 0#1 + put 0 rm)
  | .bicShReg c s rn rd rs ty rm =>
    BitVec.ofNat 32 (put 28 c.bits + put 25 0b000#3 + put 21 14#4 +
      put 20 (BitVec.ofBool s) + put 16 rn + put 12 rd + put 8 rs + put 7 0#1 + put 5 ty.bits + put 4 1#1 + put 0 rm)
  | .mvnImm c s rn rd rot imm =>
    BitVec.ofNat 32 (put 28 c.bits + put 25 0b001#3 + put 21 15#4 +
      put 20 (BitVec.ofBool s) + put 16 rn + put 12 rd + put 8 rot + put 0 imm)
  | .mvnShImm c s rn rd amt ty rm =>
    BitVec.ofNat 32 (put 28 c.bits + put 25 0b000#3 + put 21 15#4 +
      put 20 (BitVec.ofBool s) + put 16 rn + put 12 rd + put 7 amt + put 5 ty.bits + put 4 0#1 + put 0 rm)
  | .mvnShReg c s rn rd rs ty rm =>
    BitVec.ofNat 32 (put 28 c.bits + put 25 0b000#3 + put 21 15#4 +
      put 20 (BitVec.ofBool s) + put 16 rn + put 12 rd + put 8 rs + put 7 0#1 + put 5 ty.bits + put 4 1#1 + put 0 rm)
  | .mrs c ps rd =>
    BitVec.ofNat 32 (put 28 c.bits + put 23 0b00010#5 + put 22 ps.bit + put 16 0b001111#6 +
      put 12 rd + put 0 0#12)
  | .msrPsr c pd rm =>
    BitVec.ofNat 32 (put 28 c.bits + put 23 0b00010#5 + put 22 pd.bit +
      put 12 0b1010011111#10 + put 4 0#8 + put 0 rm)
  | .msrFlagsReg c pd rm =>
    BitVec.ofNat 32 (put 28 c.bits + put 23 0b00010#5 + put 22 pd.bit +
      put 12 0b1010001111#10 + put 4 0#8 + put 0 rm)
  | .msrFlagsImm c pd rot imm =>
    BitVec.ofNat 32 (put 28 c.bits + put 23 0b00110#5 + put 22 pd.bit +
      put 12 0b1010001111#10 + put 8 rot + put 0 imm)
  | .mul c s rd rn rs rm =>
    BitVec.ofNat 32 (put 28 c.bits + put 22 0#6 + put 21 0#1 + put 20 (BitVec.ofBool s) +
      put 16 rd + put 12 rn + put 8 rs + put 4 0b1001#4 + put 0 rm)
  | .mla c s rd rn rs rm =>
    BitVec.ofNat 32 (put 28 c.bits + put 22 0#6 + put 21 1#1 + put 20 (BitVec.ofBool s) +
      put 16 rd + put 12 rn + put 8 rs + put 4 0b1001#4 + put 0 rm)
  | .swp c rn rd rm sbz =>
    BitVec.ofNat 32 (put 28 c.bits + put 23 0b00010#5 + put 22 0#1 + put 20 0b00#2 +
      put 16 rn + put 12 rd + put 8 sbz + put 4 0b1001#4 + put 0 rm)
  | .swpb c rn rd rm sbz =>
    BitVec.ofNat 32 (put 28 c.bits + put 23 0b00010#5 + put 22 1#1 + put 20 0b00#2 +
      put 16 rn + put 12 rd + put 8 sbz + put 4 0b1001#4 + put 0 rm)
  | .ldrImmPre c up w rn rd off =>
    BitVec.ofNat 32 (put 28 c.bits + put 25 0b010#3 + put 24 1#1 +
      put 23 (BitVec.ofBool up) + put 22 0#1 + put 21 (BitVec.ofBool w) + put 20 1#1 + put 16 rn + put 12 rd + put 0 off)
  | .ldrImmPost c up rn rd off =>
    BitVec.ofNat 32 (put 28 c.bits + put 25 0b010#3 + put 24 0#1 +
      put 23 (BitVec.ofBool up) + put 22 0#1 + put 21 0#1 + put 20 1#1 + put 16 rn + put 12 rd + put 0 off)
  | .ldrRegPre c up w rn rd amt ty rm =>
    BitVec.ofNat 32 (put 28 c.bits + put 25 0b011#3 + put 24 1#1 +
      put 23 (BitVec.ofBool up) + put 22 0#1 + put 21 (BitVec.ofBool w) + put 20 1#1 + put 16 rn + put 12 rd + put 7 amt +
      put 5 ty.bits + put 4 0#1 + put 0 rm)
  | .ldrRegPost c up rn rd amt ty rm =>
    BitVec.ofNat 32 (put 28 c.bits + put 25 0b011#3 + put 24 0#1 +
      put 23 (BitVec.ofBool up) + put 22 0#1 + put 21 0#1 + put 20 1#1 + put 16 rn + put 12 rd + put 7 amt + put 5 ty.bits +
      put 4 0#1 + put 0 rm)
  | .ldrbImmPre c up w rn rd off =>
    BitVec.ofNat 32 (put 28 c.bits + put 25 0b010#3 + put 24 1#1 +
      put 23 (BitVec.ofBool up) + put 22 1#1 + put 21 (BitVec.ofBool w) + put 20 1#1 + put 16 rn + put 12 rd + put 0 off)
  | .ldrbImmPost c up rn rd off =>
    BitVec.ofNat 32 (put 28 c.bits + put 25 0b010#3 + put 24 0#1 +
      put 23 (BitVec.ofBool up) + put 22 1#1 + put 21 0#1 + put 20 1#1 + put 16 rn + put 12 rd + put 0 off)
  | .ldrbRegPre c up w rn rd amt ty rm =>
    BitVec.ofNat 32 (put 28 c.bits + put 25 0b011#3 + put 24 1#1 +
      put 23 (BitVec.ofBool up) + put 22 1#1 + put 21 (BitVec.ofBool w) + put 20 1#1 + put 16 rn + put 12 rd + put 7 amt +
      put 5 ty.bits + put 4 0#1 + put 0 rm)
  | .ldrbRegPost c up rn rd amt ty rm =>
    BitVec.ofNat 32 (put 28 c.bits + put 25 0b011#3 + put 24 0#1 +
      put 23 (BitVec.ofBool up) + put 22 1#1 + put 21 0#1 + put 20 1#1 + put 16 rn + put 12 rd + put 7 amt + put 5 ty.bits +
      put 4 0#1 + put 0 rm)
  | .strImmPre c up w rn rd off =>
    BitVec.ofNat 32 (put 28 c.bits + put 25 0b010#3 + put 24 1#1 +
      put 23 (BitVec.ofBool up) + put 22 0#1 + put 21 (BitVec.ofBool w) + put 20 0#1 + put 16 rn + put 12 rd + put 0 off)
  | .strImmPost c up rn rd off =>
    BitVec.ofNat 32 (put 28 c.bits + put 25 0b010#3 + put 24 0#1 +
      put 23 (BitVec.ofBool up) + put 22 0#1 + put 21 0#1 + put 20 0#1 + put 16 rn + put 12 rd + put 0 off)
  | .strRegPre c up w rn rd amt ty rm =>
    BitVec.ofNat 32 (put 28 c.bits + put 25 0b011#3 + put 24 1#1 +
      put 23 (BitVec.ofBool up) + put 22 0#1 + put 21 (BitVec.ofBool w) + put 20 0#1 + put 16 rn + put 12 rd + put 7 amt +
      put 5 ty.bits + put 4 0#1 + put 0 rm)
  | .strRegPost c up rn rd amt ty rm =>
    BitVec.ofNat 32 (put 28 c.bits + put 25 0b011#3 + put 24 0#1 +
      put 23 (BitVec.ofBool up) + put 22 0#1 + put 21 0#1 + put 20 0#1 + put 16 rn + put 12 rd + put 7 amt + put 5 ty.bits +
      put 4 0#1 + put 0 rm)
  | .strbImmPre c up w rn rd off =>
    BitVec.ofNat 32 (put 28 c.bits + put 25 0b010#3 + put 24 1#1 +
      put 23 (BitVec.ofBool up) + put 22 1#1 + put 21 (BitVec.ofBool w) + put 20 0#1 + put 16 rn + put 12 rd + put 0 off)
  | .strbImmPost c up rn rd off =>
    BitVec.ofNat 32 (put 28 c.bits + put 25 0b010#3 + put 24 0#1 +
      put 23 (BitVec.ofBool up) + put 22 1#1 + put 21 0#1 + put 20 0#1 + put 16 rn + put 12 rd + put 0 off)
  | .strbRegPre c up w rn rd amt ty rm =>
    BitVec.ofNat 32 (put 28 c.bits + put 25 0b011#3 + put 24 1#1 +
      put 23 (BitVec.ofBool up) + put 22 1#1 + put 21 (BitVec.ofBool w) + put 20 0#1 + put 16 rn + put 12 rd + put 7 amt +
      put 5 ty.bits + put 4 0#1 + put 0 rm)
  | .strbRegPost c up rn rd amt ty rm =>
    BitVec.ofNat 32 (put 28 c.bits + put 25 0b011#3 + put 24 0#1 +
      put 23 (BitVec.ofBool up) + put 22 1#1 + put 21 0#1 + put 20 0#1 + put 16 rn + put 12 rd + put 7 amt + put 5 ty.bits +
      put 4 0#1 + put 0 rm)
  | .ldrtImm c up rn rd off =>
    BitVec.ofNat 32 (put 28 c.bits + put 25 0b010#3 + put 24 0#1 +
      put 23 (BitVec.ofBool up) + put 22 0#1 + put 21 1#1 + put 20 1#1 + put 16 rn + put 12 rd + put 0 off)
  | .ldrtReg c up rn rd amt ty rm =>
    BitVec.ofNat 32 (put 28 c.bits + put 25 0b011#3 + put 24 0#1 +
      put 23 (BitVec.ofBool up) + put 22 0#1 + put 21 1#1 + put 20 1#1 + put 16 rn + put 12 rd + put 7 amt + put 5 ty.bits +
      put 4 0#1 + put 0 rm)
  | .ldrbtImm c up rn rd off =>
    BitVec.ofNat 32 (put 28 c.bits + put 25 0b010#3 + put 24 0#1 +
      put 23 (BitVec.ofBool up) + put 22 1#1 + put 21 1#1 + put 20 1#1 + put 16 rn + put 12 rd + put 0 off)
  | .ldrbtReg c up rn rd amt ty rm =>
    BitVec.ofNat 32 (put 28 c.bits + put 25 0b011#3 + put 24 0#1 +
      put 23 (BitVec.ofBool up) + put 22 1#1 + put 21 1#1 + put 20 1#1 + put 16 rn + put 12 rd + put 7 amt + put 5 ty.bits +
      put 4 0#1 + put 0 rm)
  | .strtImm c up rn rd off =>
    BitVec.ofNat 32 (put 28 c.bits + put 25 0b010#3 + put 24 0#1 +
      put 23 (BitVec.ofBool up) + put 22 0#1 + put 21 1#1 + put 20 0#1 + put 16 rn + put 12 rd + put 0 off)
  | .strtReg c up rn rd amt ty rm =>
    BitVec.ofNat 32 (put 28 c.bits + put 25 0b011#3 + put 24 0#1 +
      put 23 (BitVec.ofBool up) + put 22 0#1 + put 21 1#1 + put 20 0#1 + put 16 rn + put 12 rd + put 7 amt + put 5 ty.bits +
      put 4 0#1 + put 0 rm)
  | .strbtImm c up rn rd off =>
    BitVec.ofNat 32 (put 28 c.bits + put 25 0b010#3 + put 24 0#1 +
      put 23 (BitVec.ofBool up) + put 22 1#1 + put 21 1#1 + put 20 0#1 + put 16 rn + put 12 rd + put 0 off)
  | .strbtReg c up rn rd amt ty rm =>
    BitVec.ofNat 32 (put 28 c.bits + put 25 0b011#3 + put 24 0#1 +
      put 23 (BitVec.ofBool up) + put 22 1#1 + put 21 1#1 + put 20 0#1 + put 16 rn + put 12 rd + put 7 amt + put 5 ty.bits +
      put 4 0#1 + put 0 rm)
  | .ldm c pre up w rn list =>
    BitVec.ofNat 32 (put 28 c.bits + put 25 0b100#3 + put 24 (BitVec.ofBool pre) +
      put 23 (BitVec.ofBool up) + put 22 0#1 + put 21 (BitVec.ofBool w) + put 20 1#1 + put 16 rn + put 15 0#1 + put 0 list)
  | .ldmPc c pre up w rn list =>
    BitVec.ofNat 32 (put 28 c.bits + put 25 0b100#3 + put 24 (BitVec.ofBool pre) +
      put 23 (BitVec.ofBool up) + put 22 0#1 + put 21 (BitVec.ofBool w) + put 20 1#1 + put 16 rn + put 15 1#1 + put 0 list)
  | .ldmPcRestore c pre up w rn list =>
    BitVec.ofNat 32 (put 28 c.bits + put 25 0b100#3 +
      put 24 (BitVec.ofBool pre) + put 23 (BitVec.ofBool up) + put 22 1#1 + put 21 (BitVec.ofBool w) + put 20 1#1 +
      put 16 rn + put 15 1#1 + put 0 list)
  | .ldmUser c pre up w rn list =>
    BitVec.ofNat 32 (put 28 c.bits + put 25 0b100#3 + put 24 (BitVec.ofBool pre) +
      put 23 (BitVec.ofBool up) + put 22 1#1 + put 21 (BitVec.ofBool w) + put 20 1#1 + put 16 rn + put 15 0#1 + put 0 list)
  | .stm c pre up w rn list =>
    BitVec.ofNat 32 (put 28 c.bits + put 25 0b100#3 + put 24 (BitVec.ofBool pre) +
      put 23 (BitVec.ofBool up) + put 22 0#1 + put 21 (BitVec.ofBool w) + put 20 0#1 + put 16 rn + put 0 list)
  | .stmUser c pre up w rn list =>
    BitVec.ofNat 32 (put 28 c.bits + put 25 0b100#3 + put 24 (BitVec.ofBool pre) +
      put 23 (BitVec.ofBool up) + put 22 1#1 + put 21 (BitVec.ofBool w) + put 20 0#1 + put 16 rn + put 0 list)
  | .b c off =>
    BitVec.ofNat 32 (put 28 c.bits + put 25 0b101#3 + put 24 0#1 + put 0 off)
  | .bl c off =>
    BitVec.ofNat 32 (put 28 c.bits + put 25 0b101#3 + put 24 1#1 + put 0 off)
  | .ldc c pre up n w rn crd cp off =>
    BitVec.ofNat 32 (put 28 c.bits + put 25 0b110#3 +
      put 24 (BitVec.ofBool pre) + put 23 (BitVec.ofBool up) + put 22 (BitVec.ofBool n) + put 21 (BitVec.ofBool w) +
      put 20 1#1 + put 16 rn + put 12 crd + put 8 cp + put 0 off)
  | .stc c pre up n w rn crd cp off =>
    BitVec.ofNat 32 (put 28 c.bits + put 25 0b110#3 +
      put 24 (BitVec.ofBool pre) + put 23 (BitVec.ofBool up) + put 22 (BitVec.ofBool n) + put 21 (BitVec.ofBool w) +
      put 20 0#1 + put 16 rn + put 12 crd + put 8 cp + put 0 off)
  | .cdp c opc crn crd cp info crm =>
    BitVec.ofNat 32 (put 28 c.bits + put 24 0b1110#4 + put 20 opc + put 16 crn +
      put 12 crd + put 8 cp + put 5 info + put 4 0#1 + put 0 crm)
  | .mrc c opc crn rd cp info crm =>
    BitVec.ofNat 32 (put 28 c.bits + put 24 0b1110#4 + put 21 opc + put 20 1#1 +
      put 16 crn + put 12 rd + put 8 cp + put 5 info + put 4 1#1 + put 0 crm)
  | .mcr c opc crn rd cp info crm =>
    BitVec.ofNat 32 (put 28 c.bits + put 24 0b1110#4 + put 21 opc + put 20 0#1 +
      put 16 crn + put 12 rd + put 8 cp + put 5 info + put 4 1#1 + put 0 crm)
  | .mrcId c opc rd info crm =>
    BitVec.ofNat 32 (put 28 c.bits + put 24 0b1110#4 + put 21 opc + put 20 1#1 +
      put 16 0#4 + put 12 rd + put 8 0b1111#4 + put 5 info + put 4 1#1 + put 0 crm)
  | .mcrControl c opc rd info crm =>
    BitVec.ofNat 32 (put 28 c.bits + put 24 0b1110#4 + put 21 opc + put 20 0#1 +
      put 16 1#4 + put 12 rd + put 8 0b1111#4 + put 5 info + put 4 1#1 + put 0 crm)
  | .mcrTtb c opc rd info crm =>
    BitVec.ofNat 32 (put 28 c.bits + put 24 0b1110#4 + put 21 opc + put 20 0#1 +
      put 16 2#4 + put 12 rd + put 8 0b1111#4 + put 5 info + put 4 1#1 + put 0 crm)
  | .mcrDac c opc rd info crm =>
    BitVec.ofNat 32 (put 28 c.bits + put 24 0b1110#4 + put 21 opc + put 20 0#1 +
      put 16 3#4 + put 12 rd + put 8 0b1111#4 + put 5 info + put 4 1#1 + put 0 crm)
  | .mrcFsr c opc rd info crm =>
    BitVec.ofNat 32 (put 28 c.bits + put 24 0b1110#4 + put 21 opc + put 20 1#1 +
      put 16 5#4 + put 12 rd + put 8 0b1111#4 + put 5 info + put 4 1#1 + put 0 crm)
  | .mcrFlushTlb c opc rd info crm =>
    BitVec.ofNat 32 (put 28 c.bits + put 24 0b1110#4 + put 21 opc + put 20 0#1 +
      put 16 5#4 + put 12 rd + put 8 0b1111#4 + put 5 info + put 4 1#1 + put 0 crm)
  | .mrcFar c opc rd info crm =>
    BitVec.ofNat 32 (put 28 c.bits + put 24 0b1110#4 + put 21 opc + put 20 1#1 +
      put 16 6#4 + put 12 rd + put 8 0b1111#4 + put 5 info + put 4 1#1 + put 0 crm)
  | .mcrPurgeTlb c opc rd info crm =>
    BitVec.ofNat 32 (put 28 c.bits + put 24 0b1110#4 + put 21 opc + put 20 0#1 +
      put 16 6#4 + put 12 rd + put 8 0b1111#4 + put 5 info + put 4 1#1 + put 0 crm)
  | .mcrFlushIdc c opc rd info crm =>
    BitVec.ofNat 32 (put 28 c.bits + put 24 0b1110#4 + put 21 opc + put 20 0#1 +
      put 16 7#4 + put 12 rd + put 8 0b1111#4 + put 5 info + put 4 1#1 + put 0 crm)
  | .mcrC0 c opc rd info crm =>
    BitVec.ofNat 32 (put 28 c.bits + put 24 0b1110#4 + put 21 opc + put 20 0#1 +
      put 16 0#4 + put 12 rd + put 8 0b1111#4 + put 5 info + put 4 1#1 + put 0 crm)
  | .mrcC1 c opc rd info crm =>
    BitVec.ofNat 32 (put 28 c.bits + put 24 0b1110#4 + put 21 opc + put 20 1#1 +
      put 16 1#4 + put 12 rd + put 8 0b1111#4 + put 5 info + put 4 1#1 + put 0 crm)
  | .mrcC2 c opc rd info crm =>
    BitVec.ofNat 32 (put 28 c.bits + put 24 0b1110#4 + put 21 opc + put 20 1#1 +
      put 16 2#4 + put 12 rd + put 8 0b1111#4 + put 5 info + put 4 1#1 + put 0 crm)
  | .mrcC3 c opc rd info crm =>
    BitVec.ofNat 32 (put 28 c.bits + put 24 0b1110#4 + put 21 opc + put 20 1#1 +
      put 16 3#4 + put 12 rd + put 8 0b1111#4 + put 5 info + put 4 1#1 + put 0 crm)
  | .mrcC4 c opc rd info crm =>
    BitVec.ofNat 32 (put 28 c.bits + put 24 0b1110#4 + put 21 opc + put 20 1#1 +
      put 16 4#4 + put 12 rd + put 8 0b1111#4 + put 5 info + put 4 1#1 + put 0 crm)
  | .mcrC4 c opc rd info crm =>
    BitVec.ofNat 32 (put 28 c.bits + put 24 0b1110#4 + put 21 opc + put 20 0#1 +
      put 16 4#4 + put 12 rd + put 8 0b1111#4 + put 5 info + put 4 1#1 + put 0 crm)
  | .mrcC7 c opc rd info crm =>
    BitVec.ofNat 32 (put 28 c.bits + put 24 0b1110#4 + put 21 opc + put 20 1#1 +
      put 16 7#4 + put 12 rd + put 8 0b1111#4 + put 5 info + put 4 1#1 + put 0 crm)
  | .mrcHigh c opc crn rd info crm =>
    BitVec.ofNat 32 (put 28 c.bits + put 24 0b1110#4 + put 21 opc + put 20 1#1 +
      put 19 1#1 + put 16 crn + put 12 rd + put 8 0b1111#4 + put 5 info + put 4 1#1 + put 0 crm)
  | .mcrHigh c opc crn rd info crm =>
    BitVec.ofNat 32 (put 28 c.bits + put 24 0b1110#4 + put 21 opc + put 20 0#1 +
      put 19 1#1 + put 16 crn + put 12 rd + put 8 0b1111#4 + put 5 info + put 4 1#1 + put 0 crm)
  | .swi c comment =>
    BitVec.ofNat 32 (put 28 c.bits + put 24 0b1111#4 + put 0 comment)
  | .undefined c hi lo =>
    BitVec.ofNat 32 (put 28 c.bits + put 25 0b011#3 + put 5 hi + put 4 1#1 + put 0 lo)

end Sys2Proof
end

