-- ==== Sys2Proof/Machine/Fetch.lean ====
section
/-! DEFINITION. What happens around an instruction: the inputs at the boundary, Reset, the interrupts, the prefetch, and
the order in which they are considered (rules R14, R63, R432, R440, R450, R490). -/

namespace Sys2Proof.Machine

/-- The inputs at the coming boundary, and the state without them (rule R440, D9; log entry 10). -/
def State.popInputs (s : State) : Inputs × State :=
  match s.inputs with
  | [] => ({ fiq := false, irq := false, reset := false }, s)
  | i :: is => (i, { s with inputs := is })

/-- What becomes of the buffered writes at Reset: each is performed or lost (rule R490, log entry 42). -/
def resetWrites : List Pending → MemSys → MemSys
  | [], m => m
  | p :: ps, m =>
    resetWrites ps (if m.drawBit.1 then m.drawBit.2.store p.pa p.lanes p.data else m.drawBit.2)

/-- The memory system at Reset: no valid TLB entry, no valid line, an empty write buffer, an empty pipeline (rule R490). -/
def MemSys.resetEntry (m : MemSys) : MemSys :=
  { (resetWrites m.wbuf { m with wbuf := [] }).tlbFlush with cache := [], pipe := [] }

/-- Reset (rules R432, R490): R14_svc and SPSR_svc get any value, every other register keeps its own (log entry 43). -/
def State.resetEntry (s : State) : State :=
  let s1 := s.withSys s.sys.resetEntry
  let s2 := s1.draw.2
  let s3 := s2.draw.2
  { s3.setPreg .r14Svc s1.draw.1 with
    spsrSvc := s2.draw.1, cpsr := entryPsr s.cpsr .svc true, cp15 := { s.cp15 with control := 0 },
    pc := 0, bankHazard := false }

/-- The interrupt taken at a boundary, if any: FIQ before IRQ, each if its mask bit is clear (rule R440; D18). -/
def pendingInterrupt (inp : Inputs) (s : State) : Option Exception :=
  if inp.fiq && !psrF s.cpsr then some .fiq
  else if inp.irq && !psrI s.cpsr then some .irq
  else none

/-- The prefetched words that still lie in the instruction stream from `va` on, three at most (rule R63). -/
def keepSlots (va : Word) : Nat → List Slot → List Slot
  | 0, _ => []
  | _ + 1, [] => []
  | n + 1, x :: xs => if x.va = va then x :: keepSlots (va + 4#32) n xs else []

/-- The next `n` fetches, from `va` on (rules R63, R95). -/
def fetchSlots (cp : Cp15) (priv : Bool) : Nat → Word → MemSys → MemSys
  | 0, _, m => m
  | n + 1, va, m =>
    let r := fetchWord cp va priv m
    fetchSlots cp priv n (va + 4#32) { r.2 with pipe := r.2.pipe ++ [{ va := va, got := r.1 }] }

/-- The pipeline filled when the instruction at `pc` executes: the words at `pc`, `pc + 4` and `pc + 8` have been fetched
(rule R63, log entry 15). -/
def MemSys.fillPipe (m : MemSys) (cp : Cp15) (pc : Word) (priv : Bool) : MemSys :=
  let kept := keepSlots pc 3 m.pipe
  fetchSlots cp priv (3 - kept.length) (pc + BitVec.ofNat 32 (4 * kept.length)) { m with pipe := kept }

/-- The state in which the instruction at the pc executes. -/
def State.fetched (s : State) (md : Mode) : State := s.withSys (s.sys.fillPipe s.cp15 s.pc md.privileged)

/-- What the pipeline holds for the instruction at the pc. -/
def State.head (s : State) : Fetched :=
  match s.sys.pipe with
  | [] => .aborted
  | x :: _ => x.got

/-- A word at execution: the instruction it is; or, where it is none, no effect if its condition fails (rules R181, R201). -/
def executeWord (run : Instr → State → Result) (w : Word) (s : State) : Result :=
  match decode w with
  | .ok i => run i s
  | .error e =>
    if conditionHolds (condOf w) s.flags then .refused (.undefinedEncoding e) else .next s.advance

/-- The head of the pipeline at execution: a marked word is a prefetch abort, before its condition is tested (rules R14,
R434; D17). -/
def executeHead (run : Instr → State → Result) (s : State) : Result :=
  match s.head with
  | .aborted => .next (s.takeException .prefetchAbort)
  | .reservedPermission => .refused .reservedPermission
  | .word w _ => executeWord run w s

/-- One step, once its inputs are known and no Reset is asserted (rules R14, R440, R450). -/
def stepRunning (run : Instr → State → Result) (inp : Inputs) (s : State) : Result :=
  s.gate fun md =>
    match pendingInterrupt inp s with
    | some e => .next (s.takeException e)
    | none => executeHead run (s.fetched md)

/-- One step: Reset first, then the interrupts, then the instruction (rules R14, R440, R450). -/
def stepWith (run : Instr → State → Result) (s : State) : Result :=
  if s.popInputs.1.reset then .next s.popInputs.2.resetEntry
  else stepRunning run s.popInputs.1 (s.popInputs.2.withSys s.popInputs.2.sys.drainSome)

/-- The physical address the coming fetch reads. -/
def State.fetchAddress (s : State) : Word :=
  match translate s.cp15 s.pc false (s.cpsr.extractLsb' 0 5 != 0b10000#5) s.sys with
  | .ok t _ => t.pa
  | .abort _ _ => s.pc
  | .refuse _ => s.pc

/-- `s` with the word `w` where the next fetch finds it: Control.P and Control.D set, no input asserted, the pipeline and the
cache without an older copy, and `w` in memory (log entry 5). -/
def State.placeFetchWord (s : State) (w : Word) : State :=
  { s with
    cp15 := { s.cp15 with control := s.cp15.control ||| 0x30#32 },
    inputs := [],
    sys := { s.sys.drainAll.store s.fetchAddress 15#4 w with
      pipe := [], cache := s.sys.cache.filter fun l => !(l.tag == lineNumber s.pc) } }

end Sys2Proof.Machine
end

