-- ==== Sys2Proof/Safety.lean ====
section
/-! DEFINITION. What claims speak of: the invariant that every step keeps, the states in which instructions run, the families
of instructions, what an instruction leaves unchanged, and the results that the spec's tables name. -/

namespace Sys2Proof.Machine

/-! ## The invariant -/

/-- Two cache lines that may stand side by side: different tags, and not the same place (rule R160: 4 lines to an index). -/
def CacheLine.apart (a b : CacheLine) : Prop :=
  a.tag ≠ b.tag ∧ (a.bank ≠ b.bank ∨ Config.cacheIndex a.tag ≠ Config.cacheIndex b.tag)

/-- The memory system is well formed: memory in its canonical form, the write buffer within its 8 words and 4 addresses
(rule R167), cache lines in different places under different tags (rule R160). -/
def MemSys.Inv (m : MemSys) : Prop :=
  Memory.wf m.mem = true ∧ bufferHolds m.wbuf = true ∧ m.cache.Pairwise CacheLine.apart

/-- The coprocessor 15 registers are well formed: the bits that shall be 0 are 0 (rule R397) and neither the cache nor the
write buffer is on with the MMU off (rule R177). -/
def Cp15.Inv (cp : Cp15) : Prop :=
  cp.control.extractLsb' 11 21 = 0#21 ∧ cp.ttb.extractLsb' 0 14 = 0#14 ∧
    (cp.mmuOn = false → cp.cacheOn = false ∧ cp.writeBufferOn = false)

/-- The invariant of the machine: the memory system and coprocessor 15 are well formed, and bits [1:0] of the pc are 0
(rule R30). -/
def State.Inv (s : State) : Prop :=
  s.sys.Inv ∧ s.cp15.Inv ∧ isAligned s.pc = true

/-! ## States -/

/-- Instructions run in this state: a legal mode `md` (rule R36) and the 32-bit configuration (rule R6). -/
def State.Runs (s : State) (md : Mode) : Prop :=
  s.mode = some md ∧ s.cp15.prog32 = true ∧ s.cp15.data32 = true

/-- An instruction of condition `c` is executed in this state, in mode `md` (rules R14, R231). -/
def State.Executes (s : State) (md : Mode) (c : Cond) : Prop := s.Runs md ∧ conditionHolds c s.flags = true

/-- The access to `va` is flat and plain: the MMU is off (rule R101), the line is not in the cache, and at that address the
platform neither asserts ABORT nor answers for itself (rules R83, R150). -/
def State.FlatAt (s : State) (k : BusKind) (va : Word) : Prop :=
  s.cp15.mmuOn = false ∧ s.sys.cachedWord va = none ∧ s.sys.asserts k va = false ∧ s.sys.isVolatile va = false

/-! ## What is left unchanged -/

/-- The SPSRs and coprocessor 15 are as before. -/
def State.KeepsSpecial (s t : State) : Prop := (∀ m, t.spsr m = s.spsr m) ∧ t.cp15 = s.cp15

/-- Every byte of memory, with all that the processor has written to it, is as before. -/
def State.KeepsMemory (s t : State) : Prop := ∀ a, t.sys.physByte a = s.sys.physByte a

/-- Every general register but `R[n]` of mode `md` is as before (for n = 15: every one). -/
def State.KeepsRegsBut (s t : State) (md : Mode) (n : RegNo) : Prop := ∀ p, md.bank n = some p ∨ t.preg p = s.preg p

/-- Every general register is as before. -/
def State.KeepsRegs (s t : State) : Prop := ∀ p, t.preg p = s.preg p

/-- Register `R[n]` of mode `md` holds `v`. -/
def State.Holds (t : State) (md : Mode) (n : RegNo) (v : Word) : Prop := ∀ p, md.bank n = some p → t.preg p = v

/-- `s` has gone to the next instruction: the pc is 4 on and no bank hazard stands. -/
def State.WentOn (s t : State) : Prop := t.pc = s.pc + 4#32 ∧ t.bankHazard = false

/-- `t` is `s` after the entry of exception `e` (rules R431, R439): R14 and the SPSR of the mode of `e` hold the return value
and the old CPSR; mode, I and (for FIQ) F are set, every other CPSR bit is kept; the pc is at the vector; every other register
and SPSR is as before. -/
structure State.Entered (s t : State) (e : Exception) : Prop where
  link : t.preg e.mode.r14 = s.pc + e.returnOffset
  regs : ∀ p, p = e.mode.r14 ∨ t.preg p = s.preg p
  saved : t.spsr e.mode = some s.cpsr
  spsrs : ∀ m, m = e.mode ∨ t.spsr m = s.spsr m
  mode : t.mode = some e.mode
  irqMask : t.cpsr.getLsbD 7 = true
  fiqMask : t.cpsr.getLsbD 6 = (e.setsF || s.cpsr.getLsbD 6)
  rest : t.cpsr.extractLsb' 8 24 = s.cpsr.extractLsb' 8 24 ∧ t.cpsr.getLsbD 5 = s.cpsr.getLsbD 5
  vector : t.pc = e.vector

/-- The codes FS[3:0] that Table 9-4 gives a fault (rule R120); none named for an external abort with the MMU off
(rule R154). -/
def FaultStatus.codes : FaultStatus → List (BitVec 4)
  | .alignment => [0b0001#4, 0b0011#4]
  | .busLevel1 => [0b1100#4]
  | .busLevel2 => [0b1110#4]
  | .translationSection => [0b0101#4]
  | .translationPage => [0b0111#4]
  | .domainSection => [0b1001#4]
  | .domainPage => [0b1011#4]
  | .permissionSection => [0b1101#4]
  | .permissionPage => [0b1111#4]
  | .busLinefetchSection => [0b0100#4]
  | .busLinefetchPage => [0b0110#4]
  | .busOtherSection => [0b1000#4]
  | .busOtherPage => [0b1010#4]
  | .busUnmapped => []

/-- The FSR and FAR of `t` hold fault `f`, as far as Table 9-4 fixes them, and the rest of coprocessor 15 is that of `s`
(rules R120, R154). -/
structure State.Records (s t : State) (f : MemFault) : Prop where
  control : t.cp15.control = s.cp15.control
  ttb : t.cp15.ttb = s.cp15.ttb
  dac : t.cp15.dac = s.cp15.dac
  status : f.status = .busUnmapped ∨ t.cp15.fsrStatus ∈ f.status.codes
  domain : ∀ d, f.domain = some d → t.cp15.fsrDomain = d
  address : f.status = .busUnmapped ∨ t.cp15.far = f.va

/-- The byte that storing `v` at physical address `pa` puts into cell `a`; none if cell `a` is not stored to (rules R82, R92,
R93).  A word goes to the word that holds `pa`, a byte to the one lane of it that the byte order gives. -/
def storedByte (sz : Size) (bigEndian : Bool) (pa v : Word) (a : Nat) : Option Byte :=
  match sz with
  | .word => if a / 4 = pa.toNat / 4 then some (v.extractLsb' (8 * (a % 4)) 8) else none
  | .byte =>
    if a = 4 * (pa.toNat / 4) + (if bigEndian then 3 - pa.toNat % 4 else pa.toNat % 4) then some (v.extractLsb' 0 8)
    else none

/-- The address of the transfer of register `r` of a block transfer: `start`, and 4 more for each listed register below `r`
(rule R341). -/
def blockAddress (s : State) (md : Mode) (pre up : Bool) (rn : RegNo) (list : BitVec 16) (r : RegNo) : Word :=
  blockStart pre up (s.read md rn 8#32) list +
    BitVec.ofNat 32 (4 * ((listRegisters list).filter fun q => q.toNat < r.toNat).length)

/-- Register `r` is in the list (rule R191). -/
def listed (list : BitVec 16) (r : RegNo) : Prop := list.getLsbD r.toNat = true

/-- The word that stands in memory at the address of the transfer of register `r`. -/
def blockWord (s : State) (md : Mode) (pre up : Bool) (rn : RegNo) (list : BitVec 16) (r : RegNo) : Word :=
  s.sys.physWord ((blockAddress s md pre up rn list r).toNat / 4)

/-- The physical address to which a word store at `a` goes, as its translation in the memory system `m` gives it; none if the
store is off a word boundary with alignment faults on, or has no translation (rules R89, R96, R124). -/
def wordPlace (cp : Cp15) (priv : Bool) (a : Word) (m : MemSys) : List Word :=
  if misaligned cp .word a then []
  else
    match translate cp a true priv m with
    | .ok t _ => [t.pa]
    | .abort _ _ => []
    | .refuse _ => []

/-- The physical addresses to which the transfers of an STM go that `writeRest` makes after an abort: each as translated in the
memory system that its turn finds (rule R354). -/
def restPlaces (cp : Cp15) (priv : Bool) : List (Word × Word) → MemSys → List Word
  | [], _ => []
  | (a, v) :: rest, m =>
    if m.drawBit.1 then
      wordPlace cp priv a m.drawBit.2 ++
        match memWrite cp .sequential .word a priv v m.drawBit.2 with
        | .refuse _ => []
        | .abort _ m' => restPlaces cp priv rest m'
        | .ok _ m' => restPlaces cp priv rest m'
    else restPlaces cp priv rest m.drawBit.2

/-- The physical addresses to which the transfers of an STM go, as `writeBlock` makes them: each as translated in the memory
system that its turn finds (rules R347, R354). -/
def blockPlaces (cp : Cp15) (priv : Bool) (style : WriteStyle) : List (Word × Word) → MemSys → List Word
  | [], _ => []
  | (a, v) :: rest, m =>
    wordPlace cp priv a m ++
      match memWrite cp style .word a priv v m with
      | .refuse _ => []
      | .abort _ m' => restPlaces cp priv rest m'
      | .ok _ m' => blockPlaces cp priv .sequential rest m'

/-! ## The results of Table 4-1, in arithmetic of their own -/

/-- The result column of Table 4-1 (rule R184), on op1, op2 and the C flag. -/
def DpOp.table (op : DpOp) (a b : Word) (c : Bool) : Word :=
  match op with
  | .and => a &&& b
  | .eor => a ^^^ b
  | .sub => a - b
  | .rsb => b - a
  | .add => a + b
  | .adc => a + b + BitVec.ofNat 32 c.toNat
  | .sbc => a - b + BitVec.ofNat 32 c.toNat - 1
  | .rsc => b - a + BitVec.ofNat 32 c.toNat - 1
  | .tst => a &&& b
  | .teq => a ^^^ b
  | .cmp => a - b
  | .cmn => a + b
  | .orr => a ||| b
  | .mov => b
  | .bic => a &&& ~~~b
  | .mvn => ~~~b

/-- The logical class (rule R250); the others are the arithmetic class (rule R251). -/
def DpOp.isLogical : DpOp → Bool
  | .and | .eor | .tst | .teq | .orr | .mov | .bic | .mvn => true
  | .sub | .rsb | .add | .adc | .sbc | .rsc | .cmp | .cmn => false

/-- The exact signed result of the arithmetic class, before it is cut to 32 bits (rule R251). -/
def DpOp.exact (op : DpOp) (a b : Word) (c : Bool) : Int :=
  match op with
  | .add | .cmn => a.toInt + b.toInt
  | .adc => a.toInt + b.toInt + c.toNat
  | .sub | .cmp => a.toInt - b.toInt
  | .rsb => b.toInt - a.toInt
  | .sbc => a.toInt - b.toInt + c.toNat - 1
  | .rsc => b.toInt - a.toInt + c.toNat - 1
  | .and | .eor | .tst | .teq | .orr | .mov | .bic | .mvn => 0

/-- The C flag of the arithmetic class (rule R251): a carry of an addition, no borrow of a subtraction. -/
def DpOp.carry (op : DpOp) (a b : Word) (c : Bool) : Prop :=
  match op with
  | .add | .cmn => 2 ^ 32 ≤ a.toNat + b.toNat
  | .adc => 2 ^ 32 ≤ a.toNat + b.toNat + c.toNat
  | .sub | .cmp => b.toNat ≤ a.toNat
  | .rsb => a.toNat ≤ b.toNat
  | .sbc => b.toNat + 1 ≤ a.toNat + c.toNat
  | .rsc => a.toNat + 1 ≤ b.toNat + c.toNat
  | .and | .eor | .tst | .teq | .orr | .mov | .bic | .mvn => False

/-- The flags `f` are what the rules of the class say, for result operands `a`, `b`, shifter carry `shc` and flags `old`
before (rules R250, R251). -/
def DpOp.FlagsAre (op : DpOp) (a b : Word) (shc : Bool) (old f : Flags) : Prop :=
  (f.n = true ↔ (op.table a b old.c).toInt < 0) ∧ (f.z = true ↔ op.table a b old.c = 0) ∧
    (if op.isLogical then f.c = shc ∧ f.v = old.v
     else (f.c = true ↔ op.carry a b old.c) ∧
       (f.v = true ↔ ¬ (-2 ^ 31 ≤ op.exact a b old.c ∧ op.exact a b old.c < 2 ^ 31)))

/-! ## The families -/

/-- What an MRC of coprocessor 15 reads (rules R401, R408, R409, R410). -/
inductive Cp15Source where
  | id | fsr | far | invalid
  deriving DecidableEq, Repr

/-- What an MCR of coprocessor 15 does (rules R402 to R407, R410). -/
inductive Cp15Target where
  | control | ttb | dac | flushTlb | purgeTlb | flushIdc | invalid
  deriving DecidableEq, Repr

/-- An instruction by its family.  `zero` of a coprocessor 15 transfer: its unnamed fields are zero (rule R411). -/
inductive View where
  | dp (op : DpOp) (c : Cond) (s : Bool) (rn rd : RegNo) (o : Operand2)
  | mrs (c : Cond) (sel : PsrSel) (rd : RegNo)
  | msr (c : Cond) (sel : PsrSel) (rm : RegNo)
  | msrFlags (c : Cond) (sel : PsrSel) (f : FlagSource)
  | mul (c : Cond) (s : Bool) (rd rs rm : RegNo)
  | mla (c : Cond) (s : Bool) (rd rn rs rm : RegNo)
  | swap (sz : Size) (c : Cond) (rn rd rm : RegNo)
  | load (sz : Size) (c : Cond) (ix : Indexing) (up : Bool) (rn rd : RegNo) (off : Offset)
  | store (sz : Size) (c : Cond) (ix : Indexing) (up : Bool) (rn rd : RegNo) (off : Offset)
  | ldm (c : Cond) (pre up w : Bool) (rn : RegNo) (list : BitVec 16)
  | ldmRestore (c : Cond) (pre up w : Bool) (rn : RegNo) (list : BitVec 16)
  | ldmUser (c : Cond) (pre up w : Bool) (rn : RegNo) (list : BitVec 16)
  | stm (c : Cond) (pre up w : Bool) (rn : RegNo) (list : BitVec 16)
  | stmUser (c : Cond) (pre up w : Bool) (rn : RegNo) (list : BitVec 16)
  | branch (c : Cond) (off : BitVec 24)
  | branchLink (c : Cond) (off : BitVec 24)
  | cp15Read (c : Cond) (zero : Bool) (rd : RegNo) (src : Cp15Source)
  | cp15Write (c : Cond) (zero : Bool) (rd : RegNo) (tgt : Cp15Target)
  | trap (c : Cond)
  | swi (c : Cond)
  deriving DecidableEq, Repr

/-- Each instruction seen as its family with its operands: what the claims about a family range over.
One arm per constructor. -/
def viewOf (i : Instr) : View :=
  match i with
  | .andImm c s rn rd rot imm => .dp .and c s rn rd (.imm rot imm)
  | .andShImm c s rn rd amt ty rm => .dp .and c s rn rd (.shImm amt ty rm)
  | .andShReg c s rn rd rs ty rm => .dp .and c s rn rd (.shReg rs ty rm)
  | .eorImm c s rn rd rot imm => .dp .eor c s rn rd (.imm rot imm)
  | .eorShImm c s rn rd amt ty rm => .dp .eor c s rn rd (.shImm amt ty rm)
  | .eorShReg c s rn rd rs ty rm => .dp .eor c s rn rd (.shReg rs ty rm)
  | .subImm c s rn rd rot imm => .dp .sub c s rn rd (.imm rot imm)
  | .subShImm c s rn rd amt ty rm => .dp .sub c s rn rd (.shImm amt ty rm)
  | .subShReg c s rn rd rs ty rm => .dp .sub c s rn rd (.shReg rs ty rm)
  | .rsbImm c s rn rd rot imm => .dp .rsb c s rn rd (.imm rot imm)
  | .rsbShImm c s rn rd amt ty rm => .dp .rsb c s rn rd (.shImm amt ty rm)
  | .rsbShReg c s rn rd rs ty rm => .dp .rsb c s rn rd (.shReg rs ty rm)
  | .addImm c s rn rd rot imm => .dp .add c s rn rd (.imm rot imm)
  | .addShImm c s rn rd amt ty rm => .dp .add c s rn rd (.shImm amt ty rm)
  | .addShReg c s rn rd rs ty rm => .dp .add c s rn rd (.shReg rs ty rm)
  | .adcImm c s rn rd rot imm => .dp .adc c s rn rd (.imm rot imm)
  | .adcShImm c s rn rd amt ty rm => .dp .adc c s rn rd (.shImm amt ty rm)
  | .adcShReg c s rn rd rs ty rm => .dp .adc c s rn rd (.shReg rs ty rm)
  | .sbcImm c s rn rd rot imm => .dp .sbc c s rn rd (.imm rot imm)
  | .sbcShImm c s rn rd amt ty rm => .dp .sbc c s rn rd (.shImm amt ty rm)
  | .sbcShReg c s rn rd rs ty rm => .dp .sbc c s rn rd (.shReg rs ty rm)
  | .rscImm c s rn rd rot imm => .dp .rsc c s rn rd (.imm rot imm)
  | .rscShImm c s rn rd amt ty rm => .dp .rsc c s rn rd (.shImm amt ty rm)
  | .rscShReg c s rn rd rs ty rm => .dp .rsc c s rn rd (.shReg rs ty rm)
  | .tstImm c rn rd rot imm => .dp .tst c true rn rd (.imm rot imm)
  | .tstShImm c rn rd amt ty rm => .dp .tst c true rn rd (.shImm amt ty rm)
  | .tstShReg c rn rd rs ty rm => .dp .tst c true rn rd (.shReg rs ty rm)
  | .teqImm c rn rd rot imm => .dp .teq c true rn rd (.imm rot imm)
  | .teqShImm c rn rd amt ty rm => .dp .teq c true rn rd (.shImm amt ty rm)
  | .teqShReg c rn rd rs ty rm => .dp .teq c true rn rd (.shReg rs ty rm)
  | .cmpImm c rn rd rot imm => .dp .cmp c true rn rd (.imm rot imm)
  | .cmpShImm c rn rd amt ty rm => .dp .cmp c true rn rd (.shImm amt ty rm)
  | .cmpShReg c rn rd rs ty rm => .dp .cmp c true rn rd (.shReg rs ty rm)
  | .cmnImm c rn rd rot imm => .dp .cmn c true rn rd (.imm rot imm)
  | .cmnShImm c rn rd amt ty rm => .dp .cmn c true rn rd (.shImm amt ty rm)
  | .cmnShReg c rn rd rs ty rm => .dp .cmn c true rn rd (.shReg rs ty rm)
  | .orrImm c s rn rd rot imm => .dp .orr c s rn rd (.imm rot imm)
  | .orrShImm c s rn rd amt ty rm => .dp .orr c s rn rd (.shImm amt ty rm)
  | .orrShReg c s rn rd rs ty rm => .dp .orr c s rn rd (.shReg rs ty rm)
  | .movImm c s rn rd rot imm => .dp .mov c s rn rd (.imm rot imm)
  | .movShImm c s rn rd amt ty rm => .dp .mov c s rn rd (.shImm amt ty rm)
  | .movShReg c s rn rd rs ty rm => .dp .mov c s rn rd (.shReg rs ty rm)
  | .bicImm c s rn rd rot imm => .dp .bic c s rn rd (.imm rot imm)
  | .bicShImm c s rn rd amt ty rm => .dp .bic c s rn rd (.shImm amt ty rm)
  | .bicShReg c s rn rd rs ty rm => .dp .bic c s rn rd (.shReg rs ty rm)
  | .mvnImm c s rn rd rot imm => .dp .mvn c s rn rd (.imm rot imm)
  | .mvnShImm c s rn rd amt ty rm => .dp .mvn c s rn rd (.shImm amt ty rm)
  | .mvnShReg c s rn rd rs ty rm => .dp .mvn c s rn rd (.shReg rs ty rm)
  | .mrs c ps rd => .mrs c ps rd
  | .msrPsr c pd rm => .msr c pd rm
  | .msrFlagsReg c pd rm => .msrFlags c pd (.reg rm)
  | .msrFlagsImm c pd rot imm => .msrFlags c pd (.imm rot imm)
  | .mul c s rd _ rs rm => .mul c s rd rs rm
  | .mla c s rd rn rs rm => .mla c s rd rn rs rm
  | .swp c rn rd rm _ => .swap .word c rn rd rm
  | .swpb c rn rd rm _ => .swap .byte c rn rd rm
  | .ldrImmPre c up w rn rd off => .load .word c (.pre w) up rn rd (.imm off)
  | .ldrImmPost c up rn rd off => .load .word c .post up rn rd (.imm off)
  | .ldrRegPre c up w rn rd amt ty rm => .load .word c (.pre w) up rn rd (.reg amt ty rm)
  | .ldrRegPost c up rn rd amt ty rm => .load .word c .post up rn rd (.reg amt ty rm)
  | .ldrbImmPre c up w rn rd off => .load .byte c (.pre w) up rn rd (.imm off)
  | .ldrbImmPost c up rn rd off => .load .byte c .post up rn rd (.imm off)
  | .ldrbRegPre c up w rn rd amt ty rm => .load .byte c (.pre w) up rn rd (.reg amt ty rm)
  | .ldrbRegPost c up rn rd amt ty rm => .load .byte c .post up rn rd (.reg amt ty rm)
  | .strImmPre c up w rn rd off => .store .word c (.pre w) up rn rd (.imm off)
  | .strImmPost c up rn rd off => .store .word c .post up rn rd (.imm off)
  | .strRegPre c up w rn rd amt ty rm => .store .word c (.pre w) up rn rd (.reg amt ty rm)
  | .strRegPost c up rn rd amt ty rm => .store .word c .post up rn rd (.reg amt ty rm)
  | .strbImmPre c up w rn rd off => .store .byte c (.pre w) up rn rd (.imm off)
  | .strbImmPost c up rn rd off => .store .byte c .post up rn rd (.imm off)
  | .strbRegPre c up w rn rd amt ty rm => .store .byte c (.pre w) up rn rd (.reg amt ty rm)
  | .strbRegPost c up rn rd amt ty rm => .store .byte c .post up rn rd (.reg amt ty rm)
  | .ldrtImm c up rn rd off => .load .word c .postUser up rn rd (.imm off)
  | .ldrtReg c up rn rd amt ty rm => .load .word c .postUser up rn rd (.reg amt ty rm)
  | .ldrbtImm c up rn rd off => .load .byte c .postUser up rn rd (.imm off)
  | .ldrbtReg c up rn rd amt ty rm => .load .byte c .postUser up rn rd (.reg amt ty rm)
  | .strtImm c up rn rd off => .store .word c .postUser up rn rd (.imm off)
  | .strtReg c up rn rd amt ty rm => .store .word c .postUser up rn rd (.reg amt ty rm)
  | .strbtImm c up rn rd off => .store .byte c .postUser up rn rd (.imm off)
  | .strbtReg c up rn rd amt ty rm => .store .byte c .postUser up rn rd (.reg amt ty rm)
  | .ldm c pre up w rn list => .ldm c pre up w rn (0#1 ++ list)
  | .ldmPc c pre up w rn list => .ldm c pre up w rn (1#1 ++ list)
  | .ldmPcRestore c pre up w rn list => .ldmRestore c pre up w rn (1#1 ++ list)
  | .ldmUser c pre up w rn list => .ldmUser c pre up w rn (0#1 ++ list)
  | .stm c pre up w rn list => .stm c pre up w rn list
  | .stmUser c pre up w rn list => .stmUser c pre up w rn list
  | .b c off => .branch c off
  | .bl c off => .branchLink c off
  | .ldc c .. => .trap c
  | .stc c .. => .trap c
  | .cdp c .. => .trap c
  | .mrc c .. => .trap c
  | .mcr c .. => .trap c
  | .mrcId c opc rd info crm => .cp15Read c (cp15FieldsZero opc info crm) rd .id
  | .mcrControl c opc rd info crm => .cp15Write c (cp15FieldsZero opc info crm) rd .control
  | .mcrTtb c opc rd info crm => .cp15Write c (cp15FieldsZero opc info crm) rd .ttb
  | .mcrDac c opc rd info crm => .cp15Write c (cp15FieldsZero opc info crm) rd .dac
  | .mrcFsr c opc rd info crm => .cp15Read c (cp15FieldsZero opc info crm) rd .fsr
  | .mcrFlushTlb c opc rd info crm => .cp15Write c (cp15FieldsZero opc info crm) rd .flushTlb
  | .mrcFar c opc rd info crm => .cp15Read c (cp15FieldsZero opc info crm) rd .far
  | .mcrPurgeTlb c opc rd info crm => .cp15Write c (cp15FieldsZero opc info crm) rd .purgeTlb
  | .mcrFlushIdc c opc rd info crm => .cp15Write c (cp15FieldsZero opc info crm) rd .flushIdc
  | .mcrC0 c opc rd info crm => .cp15Write c (cp15FieldsZero opc info crm) rd .invalid
  | .mrcC1 c opc rd info crm => .cp15Read c (cp15FieldsZero opc info crm) rd .invalid
  | .mrcC2 c opc rd info crm => .cp15Read c (cp15FieldsZero opc info crm) rd .invalid
  | .mrcC3 c opc rd info crm => .cp15Read c (cp15FieldsZero opc info crm) rd .invalid
  | .mrcC4 c opc rd info crm => .cp15Read c (cp15FieldsZero opc info crm) rd .invalid
  | .mcrC4 c opc rd info crm => .cp15Write c (cp15FieldsZero opc info crm) rd .invalid
  | .mrcC7 c opc rd info crm => .cp15Read c (cp15FieldsZero opc info crm) rd .invalid
  | .mrcHigh c .. => .trap c
  | .mcrHigh c .. => .trap c
  | .swi c .. => .swi c
  | .undefined c .. => .trap c

end Sys2Proof.Machine
end

