-- ==== Sys2Proof/Certificates/Slice0/Obligations.lean ====
section
/-! DEFINITION. The statements about the model.  `OBLIGATIONS.json` lists them; each docstring names the rules it formalises,
and says so where it rests on a choice of the model (a log entry). -/

open Sys2Proof Sys2Proof.Machine

/-! ## Encoding -/

/-- Decoding the word of an instruction gives the instruction back, for every instruction that has a word of its own and
every value of its fields (rules R180 to R196, R200); among them bits [11:8] of SWP, which the decoder keeps and nothing reads
(ruling U15 of file 93, log entry 36). -/
def Obligations.DecodeEncode : Prop := ∀ i : Instr, i.encodable = true → decode (encode i) = .ok i

/-- Encoding what a word decodes to gives the word back: decoding drops no bit (rules R180 to R196, R200). -/
def Obligations.EncodeDecode : Prop :=
  ∀ (w : Word) (i : Instr), decode w = .ok i → encode i = w ∧ i.encodable = true

/-- The words that are not instructions are those of rule R201 (a) and (b), and no others (rule R200), where a word with bits
[11:8] other than 0 that is else a SWP or SWPB is one: ruling U15 of file 93 has the decoder ignore these bits (log entry 36). -/
def Obligations.UndefinedWords : Prop :=
  ∀ w : Word,
    (decode w = .error .multiplySpace ↔
      w.extractLsb' 25 3 = 0#3 ∧ w.getLsbD 7 = true ∧ w.getLsbD 4 = true ∧
        ¬ (w.extractLsb' 22 3 = 0#3 ∧ w.extractLsb' 5 2 = 0#2) ∧
        ¬ (w.extractLsb' 23 2 = 2#2 ∧ w.extractLsb' 20 2 = 0#2 ∧ w.extractLsb' 5 2 = 0#2)) ∧
      (decode w = .error .psrTransferSpace ↔
        w.extractLsb' 26 2 = 0#2 ∧ w.extractLsb' 23 2 = 2#2 ∧ w.getLsbD 20 = false ∧
          ((w.getLsbD 25 = false ∧ ¬ (w.getLsbD 7 = true ∧ w.getLsbD 4 = true) ∧
              ¬ (w.extractLsb' 16 6 = 0b001111#6 ∧ w.extractLsb' 0 12 = 0#12) ∧
              ¬ (w.extractLsb' 12 10 = 0b1010011111#10 ∧ w.extractLsb' 4 8 = 0#8) ∧
              ¬ (w.extractLsb' 12 10 = 0b1010001111#10 ∧ w.extractLsb' 4 8 = 0#8)) ∨
            (w.getLsbD 25 = true ∧ w.extractLsb' 12 10 ≠ 0b1010001111#10)))

/-- Words from the encodings of the spec, at least one of each family, decode to the instructions they stand for: the examples
of rules R213, R234, R262, R291, R295, R301, R302, R313, R315, R316, R317, R346, R347, R371, R372, R380, R387, R393, R395,
R396, R401, R402 and R420.  The last SWP has a 1 in bits [11:8], which ruling U15 of file 93 has the decoder ignore (log entry
36). -/
def Obligations.SampleWords : Prop :=
  decode 0xEAFFFFFE#32 = .ok (.b .al 0xFFFFFE#24) ∧
  decode 0xEB00003E#32 = .ok (.bl .al 0x3E#24) ∧
  decode 0xE0454237#32 = .ok (.subShReg .al false 5#4 4#4 2#4 .lsr 7#4) ∧
  decode 0xE2500001#32 = .ok (.subImm .al true 0#4 0#4 0#4 1#8) ∧
  decode 0xE10F0000#32 = .ok (.mrs .al .cpsr 0#4) ∧
  decode 0xE328F20F#32 = .ok (.msrFlagsImm .al .cpsr 2#4 15#8) ∧
  decode 0xE0010392#32 = .ok (.mul .al false 1#4 0#4 3#4 2#4) ∧
  decode 0x00314392#32 = .ok (.mla .eq true 1#4 4#4 3#4 2#4) ∧
  decode 0xE7921103#32 = .ok (.ldrRegPre .al true false 2#4 1#4 2#5 .lsl 3#4) ∧
  decode 0x05D61005#32 = .ok (.ldrbImmPre .eq true false 6#4 1#4 5#12) ∧
  decode 0xE6821004#32 = .ok (.strRegPost .al true 2#4 1#4 0#5 .lsl 4#4) ∧
  decode 0xE5C10003#32 = .ok (.strbImmPre .al true false 1#4 0#4 3#12) ∧
  decode 0xE8FD8000#32 = .ok (.ldmPcRestore .al false true true 13#4 0#15) ∧
  decode 0xE82D400F#32 = .ok (.stm .al false false true 13#4 0x400F#16) ∧
  decode 0xE1020091#32 = .ok (.swp .al 2#4 0#4 1#4) ∧
  decode 0xE1442093#32 = .ok (.swpb .al 4#4 2#4 3#4) ∧
  decode 0xE1020F91#32 = .ok (.swp .al 2#4 0#4 1#4 15#4) ∧
  decode 0xEF123456#32 = .ok (.swi .al 0x123456#24) ∧
  decode 0xEEA21103#32 = .ok (.cdp .al 10#4 2#4 1#4 1#4 0#3 3#4) ∧
  decode 0xED9F2104#32 = .ok (.ldc .al true true false false 15#4 2#4 1#4 4#8) ∧
  decode 0x0DE53206#32 = .ok (.stc .eq true true true true 5#4 3#4 2#4 6#8) ∧
  decode 0xEEB53216#32 = .ok (.mrc .al 5#3 5#4 3#4 2#4 0#3 6#4) ∧
  decode 0xEE064610#32 = .ok (.mcr .al 0#3 6#4 4#4 6#4 0#3 0#4) ∧
  decode 0xEE100F10#32 = .ok (.mrcId .al 0#3 0#4 0#3 0#4) ∧
  decode 0xEE010F10#32 = .ok (.mcrControl .al 0#3 0#4 0#3 0#4) ∧
  decode 0xE7F000F0#32 = .ok (.undefined .al 0xF8007#20 0#4)

/-! ## The step -/

/-- A step runs the decoded instruction (rules R14, R63): with no Reset asserted and no interrupt to take, the pipeline is
filled from the pc on; if the word at its head decodes to `i`, the step is `exec i` there.  Around `exec`, the step has taken
the inputs of this boundary off the list and drained part of the write buffer (the model's form: log entries 10, 14, 15).
With nothing prefetched and a flat access to plain memory, the word at its head is the one at the pc in memory. -/
def Obligations.StepRunsDecoded : Prop :=
  ∀ (s u : State) (md : Mode) (i : Instr),
    s.popInputs.1.reset = false → s.Runs md → pendingInterrupt s.popInputs.1 s = none →
    u = (s.popInputs.2.withSys s.popInputs.2.sys.drainSome).fetched md →
    (∀ w pa, u.head = .word w pa → decode w = .ok i → step s = exec i u) ∧
      (s.sys.pipe = [] → s.FlatAt .read s.pc → decode (s.sys.physWord (s.pc.toNat / 4)) = .ok i → step s = exec i u)

/-- Every step keeps the invariant: memory in its canonical form, the write buffer within its size, no two cache lines in one
place, the bits of coprocessor 15 that shall be 0, cache and write buffer off while the MMU is off, the pc word-aligned (rules
R30, R160, R167, R177, R397; memory's form is the model's). -/
def Obligations.StepKeepsInv : Prop := ∀ s t : State, s.Inv → step s = .next t → t.Inv

/-- The state after reset has the invariant.  It rests on values the model chose for registers the spec gives none (log
entries 4, 6). -/
def Obligations.ResetInv : Prop := State.reset.Inv

/-- What reset leaves, as far as rule R70 says it: pc 0, Supervisor mode, I and F set, Control 0, an empty TLB, cache, write
buffer and pipeline. -/
def Obligations.ResetState : Prop :=
  State.reset.pc = 0 ∧ State.reset.mode = some .svc ∧ State.reset.cpsr.getLsbD 7 = true ∧
    State.reset.cpsr.getLsbD 6 = true ∧ State.reset.cp15.control = 0 ∧
    (∀ va, State.reset.sys.tlbMatches va = []) ∧ (∀ va, State.reset.sys.cachedWord va = none) ∧
    State.reset.sys.wbuf = [] ∧ State.reset.sys.pipe = []

/-- Reset, from every state (rules R432, R490): whatever the mode, the masks and the configuration, the step takes it.  That no
other register changes is the model's choice (log entry 43); it is stated last. -/
def Obligations.ResetEntry : Prop :=
  ∀ s : State, s.popInputs.1.reset = true →
    ∃ t, step s = .next t ∧ t.pc = 0 ∧ t.mode = some .svc ∧ t.cpsr.getLsbD 7 = true ∧ t.cpsr.getLsbD 6 = true ∧
      t.cp15.control = 0 ∧ (∀ va, t.sys.tlbMatches va = []) ∧ (∀ va, t.sys.cachedWord va = none) ∧ t.sys.wbuf = [] ∧
      t.sys.pipe = [] ∧
      (∀ p, p = .r14Svc ∨ t.preg p = s.preg p) ∧ (∀ m, m = .svc ∨ t.spsr m = s.spsr m)

/-- A mode field that is none of the six stops the machine (rule R37): without Reset every step and every instruction is the
fault `unrecoverableMode`; with Reset the machine goes on. -/
def Obligations.IllegalModeStuck : Prop :=
  ∀ s : State,
    (s.cpsr.extractLsb' 0 5 ≠ 0b10000#5 ∧ s.cpsr.extractLsb' 0 5 ≠ 0b10001#5 ∧ s.cpsr.extractLsb' 0 5 ≠ 0b10010#5 ∧
      s.cpsr.extractLsb' 0 5 ≠ 0b10011#5 ∧ s.cpsr.extractLsb' 0 5 ≠ 0b10111#5 ∧
      s.cpsr.extractLsb' 0 5 ≠ 0b11011#5) →
    (s.popInputs.1.reset = false → step s = .fault .unrecoverableMode) ∧
      (s.popInputs.1.reset = true → ∃ t, step s = .next t ∧ t.mode = some .svc) ∧
      ∀ i, exec i s = .fault .unrecoverableMode

/-- The cases in which a step stops by name before any instruction has its effect: without Control.P and Control.D nothing
runs (rule R6; decision D1 of the spec, log entry 5); a word that is no instruction stops if its condition passes and is skipped
if it fails (rules R181, R201). -/
def Obligations.StepRefuses : Prop :=
  (∀ (s : State) (md : Mode), s.mode = some md → (s.cp15.prog32 = false ∨ s.cp15.data32 = false) →
    (s.popInputs.1.reset = false → step s = .refused .configuration26) ∧
      ∀ i, exec i s = .refused .configuration26) ∧
  ∀ (s u : State) (md : Mode) (w pa : Word) (why : DecodeReject),
    s.popInputs.1.reset = false → s.Runs md → pendingInterrupt s.popInputs.1 s = none →
    u = (s.popInputs.2.withSys s.popInputs.2.sys.drainSome).fetched md → u.head = .word w pa →
    decode w = .error why →
    (conditionHolds (condOf w) s.flags = true → step s = .refused (.undefinedEncoding why)) ∧
      (conditionHolds (condOf w) s.flags = false →
        ∃ t, step s = .next t ∧ s.KeepsRegs t ∧ t.cpsr = s.cpsr ∧ s.KeepsSpecial t ∧ s.KeepsMemory t ∧ s.WentOn t)

/-- The condition table (rule R230), on bits [31:28] of the instruction and of the CPSR. -/
def Obligations.ConditionTable : Prop :=
  ∀ (w : Word) (s : State),
    conditionHolds (condOf w) s.flags =
      match (w.extractLsb' 28 4).toNat with
      | 0 => s.cpsr.getLsbD 30
      | 1 => !s.cpsr.getLsbD 30
      | 2 => s.cpsr.getLsbD 29
      | 3 => !s.cpsr.getLsbD 29
      | 4 => s.cpsr.getLsbD 31
      | 5 => !s.cpsr.getLsbD 31
      | 6 => s.cpsr.getLsbD 28
      | 7 => !s.cpsr.getLsbD 28
      | 8 => s.cpsr.getLsbD 29 && !s.cpsr.getLsbD 30
      | 9 => !s.cpsr.getLsbD 29 || s.cpsr.getLsbD 30
      | 10 => s.cpsr.getLsbD 31 == s.cpsr.getLsbD 28
      | 11 => s.cpsr.getLsbD 31 != s.cpsr.getLsbD 28
      | 12 => !s.cpsr.getLsbD 30 && (s.cpsr.getLsbD 31 == s.cpsr.getLsbD 28)
      | 13 => s.cpsr.getLsbD 30 || (s.cpsr.getLsbD 31 != s.cpsr.getLsbD 28)
      | 14 => true
      | _ => false

/-- An instruction whose condition fails changes no register, no PSR, no byte of memory and no coprocessor 15 register, and
execution goes on at `ia + 4`; whichever instruction it is, and however ill-formed (rules R181, R231). -/
def Obligations.ConditionFails : Prop :=
  ∀ (i : Instr) (s : State) (md : Mode), s.Runs md → conditionHolds i.cond s.flags = false →
    ∃ t, exec i s = .next t ∧ s.KeepsRegs t ∧ t.cpsr = s.cpsr ∧ s.KeepsSpecial t ∧ s.KeepsMemory t ∧ s.WentOn t

/-- User mode cannot reach privileged state (rules R41, R293, R471, R472).  Whatever instruction runs in User mode: either no
bit of the CPSR but the flags changes, and no SPSR, no banked register of another mode and nothing of coprocessor 15; or the
instruction takes an exception, and then Control, the Translation Table Base and Domain Access Control are as before, the mode,
the masks and the pc are those of the entry, the old CPSR stands in the SPSR of the mode entered, and every other SPSR and
every banked register of another mode but R14 of the mode entered is as before. -/
def Obligations.UserModeConfined : Prop :=
  ∀ (i : Instr) (s t : State), s.Runs .usr → exec i s = .next t →
    (t.cpsr.extractLsb' 0 28 = s.cpsr.extractLsb' 0 28 ∧ s.KeepsSpecial t ∧
        ∀ p, (∀ n, Mode.usr.bank n ≠ some p) → t.preg p = s.preg p) ∨
      ∃ e : Exception, (e = .undefined ∨ e = .softwareInterrupt ∨ e = .dataAbort) ∧
        t.cpsr = entryPsr s.cpsr e.mode e.setsF ∧ t.spsr e.mode = some s.cpsr ∧ t.pc = e.vector ∧
        t.cp15.control = s.cp15.control ∧ t.cp15.ttb = s.cp15.ttb ∧ t.cp15.dac = s.cp15.dac ∧
        (∀ m, m = e.mode ∨ t.spsr m = s.spsr m) ∧
        ∀ p, (∀ n, Mode.usr.bank n ≠ some p) → p = e.mode.r14 ∨ t.preg p = s.preg p

/-- A step from User mode leaves it only by an exception, Reset among them (rule R472 (a)): the pc is then at the vector of the
mode entered. -/
def Obligations.UserModeLeftByException : Prop :=
  ∀ (s t : State), s.mode = some .usr → step s = .next t → t.mode ≠ some .usr →
    (t.mode = some .svc ∧ (t.pc = 0x00#32 ∨ t.pc = 0x08#32)) ∨ (t.mode = some .und ∧ t.pc = 0x04#32) ∨
      (t.mode = some .abt ∧ (t.pc = 0x0C#32 ∨ t.pc = 0x10#32)) ∨ (t.mode = some .irq ∧ t.pc = 0x18#32) ∨
      (t.mode = some .fiq ∧ t.pc = 0x1C#32)

/-! ## Registers -/

/-- The bank each register number names in each mode, and what a write of one is to a read of another (rules R21, R22, R24):
`Rn` of two modes is one register exactly where the table says so. -/
def Obligations.RegisterBanks : Prop :=
  ∀ (s : State) (m m' : Mode) (n n' : RegNo) (v ahead : Word), s.bankHazard = false → n ≠ 15#4 → n' ≠ 15#4 →
    ((s.write m n v).read m' n' ahead =
        if n = n' ∧ (n.toNat ≤ 7 ∨ m = m' ∨ (n.toNat ≤ 12 ∧ m ≠ .fiq ∧ m' ≠ .fiq)) then v else s.read m' n' ahead) ∧
      s.read m 15#4 ahead = s.pc + ahead

/-! ## Data processing -/

/-- A data processing instruction with Rd other than R15, and a test with Rd other than R15, completes: Rd alone gets the
result of Table 4-1, the flags change only with S = 1 and then as rules R250 and R251 say, every other CPSR bit, register,
special register and byte of memory is as before (rules R184, R240, R250 to R253, R260 to R275). For every form of operand 2;
R15 as the shift amount register is another statement.  The sense of C after a subtraction is the spec's own supply (G2, log
entry 39). -/
def Obligations.DataProcessingCompletes : Prop :=
  ∀ (i : Instr) (op : DpOp) (c : Cond) (sBit : Bool) (rn rd : RegNo) (o : Operand2) (s : State) (md : Mode),
    viewOf i = .dp op c sBit rn rd o → s.Executes md c → o.amountIsR15 = false → rd ≠ 15#4 →
    ∃ t, exec i s = .next t ∧
      (if op.isTest then s.KeepsRegs t
       else s.KeepsRegsBut t md rd ∧ t.Holds md rd (op.table (s.read md rn o.ahead) (o.value s md).value s.flags.c)) ∧
      t.cpsr.extractLsb' 0 28 = s.cpsr.extractLsb' 0 28 ∧
      (if sBit then op.FlagsAre (s.read md rn o.ahead) (o.value s md).value (o.value s md).carry s.flags t.flags
       else t.flags = s.flags) ∧
      s.KeepsSpecial t ∧ s.KeepsMemory t ∧ s.WentOn t

/-- After `CMP a, b` the condition names mean what they say (rules R230, R251, R270): CS is unsigned higher or same, HI
unsigned higher, GE and GT signed, EQ equality.  The sense of C after a subtraction is the spec's own supply (G2, log entry
39). -/
def Obligations.CompareOrders : Prop :=
  ∀ (a b : Word) (shc : Bool) (old : Flags),
    let f := (DpOp.cmp.compute a b shc old).flags
    (conditionHolds .eq f = true ↔ a = b) ∧ (conditionHolds .ne f = true ↔ a ≠ b) ∧
      (conditionHolds .cs f = true ↔ b.toNat ≤ a.toNat) ∧ (conditionHolds .cc f = true ↔ a.toNat < b.toNat) ∧
      (conditionHolds .hi f = true ↔ b.toNat < a.toNat) ∧ (conditionHolds .ls f = true ↔ a.toNat ≤ b.toNat) ∧
      (conditionHolds .ge f = true ↔ b.toInt ≤ a.toInt) ∧ (conditionHolds .lt f = true ↔ a.toInt < b.toInt) ∧
      (conditionHolds .gt f = true ↔ b.toInt < a.toInt) ∧ (conditionHolds .le f = true ↔ a.toInt ≤ b.toInt)

/-- LSL, LSR, ASR and ROR by an amount in the instruction (rules R242 to R245), in arithmetic.  The amount 0 is LSL #0, LSR
#32 and ASR #32; ASR divides rounding down; ROR reuses the bits that fall off, and its carry is bit 31 of the result. -/
def Obligations.ImmediateShifts : Prop :=
  ∀ (n : BitVec 5) (m : Word) (c : Bool),
    (n = 0#5 → shiftByImmediate .lsl n m c = ⟨m, c⟩ ∧ shiftByImmediate .lsr n m c = ⟨0, m.getLsbD 31⟩) ∧
      (n ≠ 0#5 →
        (shiftByImmediate .lsl n m c).value.toNat = m.toNat * 2 ^ n.toNat % 2 ^ 32 ∧
        (shiftByImmediate .lsl n m c).carry = m.getLsbD (32 - n.toNat) ∧
        (shiftByImmediate .lsr n m c).value.toNat = m.toNat / 2 ^ n.toNat ∧
        (shiftByImmediate .lsr n m c).carry = m.getLsbD (n.toNat - 1) ∧
        (shiftByImmediate .ror n m c).value = (m >>> n.toNat) ||| (m <<< (32 - n.toNat)) ∧
        (shiftByImmediate .ror n m c).carry = m.getLsbD (n.toNat - 1) ∧
        (shiftByImmediate .ror n m c).carry = (shiftByImmediate .ror n m c).value.getLsbD 31) ∧
      (shiftByImmediate .asr n m c).value.toInt = m.toInt / 2 ^ (if n = 0#5 then 32 else n.toNat) ∧
      (shiftByImmediate .asr n m c).carry = m.getLsbD (if n = 0#5 then 31 else n.toNat - 1)

/-- An STM that aborts (rule R354), in every configuration and form: the data abort is taken with the fault of the first transfer
that aborted in FSR and FAR and `ia + 8` in R14_abt; the base holds `final` with W = 1; no other register changes.  Which later
words are written is decision D7 of the spec (log entry 19). -/
def Obligations.StoreMultipleAborts : Prop :=
  ∀ (i : Instr) (user : Bool) (c : Cond) (pre up w : Bool) (rn : RegNo) (list : BitVec 16) (s : State) (md : Mode)
    (ts : List (Word × Word)) (f : MemFault) (m : MemSys),
    viewOf i = (if user then .stmUser c pre up w rn list else .stm c pre up w rn list) → s.Executes md c →
    rn ≠ 15#4 → list ≠ 0#16 → (user = true → md ≠ .usr ∧ w = false) →
    ts = blockTransfers s md (if user then .usr else md) pre up w rn list →
    writeBlock s.cp15 md.privileged .single ts s.sys = .abort f m →
    (∃ k av m1 m2, ts[k]? = some av ∧ writeBlock s.cp15 md.privileged .single (ts.take k) s.sys = .ok () m1 ∧
        memWrite s.cp15 (if k = 0 then .single else .sequential) .word av.1 md.privileged av.2 m1 = .abort f m2) ∧
      ∃ t, exec i s = .next t ∧ t.preg .r14Abt = s.pc + 8#32 ∧ s.Records t f ∧
        (if w then s.write md rn (blockFinal up (s.read md rn 8#32) list) else s).Entered t .dataAbort

/-- A shift by the bottom byte of a register (rule R248): 0 leaves operand and carry; 1 to 31 is the shift in the instruction;
32 and more is its logical extension, and ROR by more than 32 is ROR by 32 less. -/
def Obligations.RegisterShifts : Prop :=
  ∀ (ty : ShiftType) (n : Nat) (m : Word) (c : Bool), n < 256 →
    (n = 0 → shiftByRegister ty n m c = ⟨m, c⟩) ∧
      (1 ≤ n → n ≤ 31 → shiftByRegister ty n m c = shiftByImmediate ty (BitVec.ofNat 5 n) m c) ∧
      (n = 32 →
        shiftByRegister .lsl n m c = ⟨0, m.getLsbD 0⟩ ∧ shiftByRegister .lsr n m c = ⟨0, m.getLsbD 31⟩ ∧
        shiftByRegister .ror n m c = ⟨m, m.getLsbD 31⟩) ∧
      (32 < n →
        shiftByRegister .lsl n m c = ⟨0, false⟩ ∧ shiftByRegister .lsr n m c = ⟨0, false⟩ ∧
        shiftByRegister .ror n m c = shiftByRegister .ror (n - 32) m c) ∧
      (32 ≤ n → shiftByRegister .asr n m c = ⟨if m.getLsbD 31 then 0xFFFFFFFF#32 else 0, m.getLsbD 31⟩)

/-- The operand forms.  Operand 2 (rules R241, R247, R249): a rotated immediate; Rm, or R15 in its place as `ia + 8`, shifted
by an amount in the instruction; Rm, or R15 as `ia + 12`, shifted by the bottom byte of Rs.  Op1 reads R15 the same way.  ROR by
the amount 0 in an instruction is RRX (rule R246): the 33 bits `C : Rm` rotated right by one.  The carry of a rotated immediate
is decision D16 of the spec (log entry 29); that the carry out of RRX is the bit that falls off is the spec's own inference
("derived" in R246).

Single transfers (rule R312): the offset is the immediate or the shifted Rm; the modified base is the base plus (U = 1) or minus
(U = 0) the offset; the address is the modified base if pre-indexed, else the base; the base is written back if post-indexed or
W = 1; and the T forms alone make the transfer without privilege (rule R318).

Block transfers (rule R341, whose formulas are the spec's own inference): `n` is the number of bits set in the list; `start` and
`final` for the four values of P and U; the registers of the list in ascending order, the k-th of them at `start + 4 * k`.
Addresses past the top or the bottom wrap: decision D5 of the spec (log entry 23). -/
def Obligations.OperandForms : Prop :=
  (∀ (s : State) (md : Mode) (rot : BitVec 4) (imm : BitVec 8) (amt : BitVec 5) (ty : ShiftType) (rs rm : RegNo),
    ((Operand2.imm 0#4 imm).value s md).value.toNat = imm.toNat ∧
      ((Operand2.imm 0#4 imm).value s md).carry = s.cpsr.getLsbD 29 ∧
      (rot ≠ 0#4 →
        ((Operand2.imm rot imm).value s md).value.toNat =
          imm.toNat / 2 ^ (2 * rot.toNat) + imm.toNat % 2 ^ (2 * rot.toNat) * 2 ^ (32 - 2 * rot.toNat) ∧
        ((Operand2.imm rot imm).value s md).carry = ((Operand2.imm rot imm).value s md).value.getLsbD 31) ∧
      (Operand2.shImm amt ty rm).value s md =
        shiftByImmediate ty amt (if rm = 15#4 then s.pc + 8#32 else s.read md rm 0#32) (s.cpsr.getLsbD 29) ∧
      (rs ≠ 15#4 →
        (Operand2.shReg rs ty rm).value s md =
          shiftByRegister ty ((s.read md rs 0#32).toNat % 256)
            (if rm = 15#4 then s.pc + 12#32 else s.read md rm 0#32) (s.cpsr.getLsbD 29)) ∧
      s.read md 15#4 (Operand2.imm rot imm).ahead = s.pc + 8#32 ∧
      s.read md 15#4 (Operand2.shImm amt ty rm).ahead = s.pc + 8#32 ∧
      s.read md 15#4 (Operand2.shReg rs ty rm).ahead = s.pc + 12#32 ∧
      ∀ (m : Word) (c : Bool),
        BitVec.ofBool (shiftByImmediate .ror 0#5 m c).carry ++ (shiftByImmediate .ror 0#5 m c).value =
          (BitVec.ofBool c ++ m : BitVec 33).rotateRight 1) ∧
  (∀ (s : State) (md : Mode) (up w : Bool) (rn rm : RegNo) (off : Offset) (k : BitVec 12) (amt : BitVec 5) (ty : ShiftType),
    let base : Word := if rn = 15#4 then s.pc + 8#32 else s.read md rn 0#32
    ((Offset.imm k).value s md).toNat = k.toNat ∧
      (rm ≠ 15#4 →
        (Offset.reg amt ty rm).value s md = (shiftByImmediate ty amt (s.read md rm 0#32) (s.cpsr.getLsbD 29)).value) ∧
      (modifiedBase s md true rn off).toNat = (base.toNat + (off.value s md).toNat) % 2 ^ 32 ∧
      (modifiedBase s md false rn off).toNat = (base.toNat + 2 ^ 32 - (off.value s md).toNat) % 2 ^ 32 ∧
      transferAddress s md (.pre w) up rn off = modifiedBase s md up rn off ∧
      transferAddress s md .post up rn off = base ∧ transferAddress s md .postUser up rn off = base ∧
      (Indexing.pre w).writesBack = w ∧ Indexing.post.writesBack = true ∧ Indexing.postUser.writesBack = true ∧
      ((Indexing.pre w).privilege md = true ↔ md ≠ .usr) ∧ (Indexing.post.privilege md = true ↔ md ≠ .usr) ∧
      Indexing.postUser.privilege md = false) ∧
  ∀ (base : Word) (list : BitVec 16),
    listCount list = (List.range 16).countP list.getLsbD ∧
      blockStart false true base list = base ∧ blockStart true true base list = base + 4#32 ∧
      (blockStart false false base list).toNat = (base.toNat + 2 ^ 32 + 4 - 4 * listCount list) % 2 ^ 32 ∧
      (blockStart true false base list).toNat = (base.toNat + 2 ^ 32 - 4 * listCount list) % 2 ^ 32 ∧
      (blockFinal true base list).toNat = (base.toNat + 4 * listCount list) % 2 ^ 32 ∧
      (blockFinal false base list).toNat = (base.toNat + 2 ^ 32 - 4 * listCount list) % 2 ^ 32 ∧
      (∀ r, r ∈ listRegisters list ↔ listed list r) ∧
      (listRegisters list).Pairwise (fun q r => q.toNat < r.toNat) ∧
      ∀ (s : State) (md : Mode) (pre up : Bool) (rn : RegNo) (k : Nat) (r : RegNo), (listRegisters list)[k]? = some r →
        (listAddresses s md pre up rn list)[k]? =
            some (blockStart pre up (s.read md rn 8#32) list + BitVec.ofNat 32 (4 * k)) ∧
          blockAddress s md pre up rn list r = blockStart pre up (s.read md rn 8#32) list + BitVec.ofNat 32 (4 * k)

/-- A data processing result written to R15 (rule R252): with S = 0 a branch, bits [1:0] dropped (decision D4 of the spec, log
entry 22), the CPSR kept; with S = 1 in a privileged mode also the whole SPSR of that mode moves to the CPSR; with S = 1 in User
mode the spec gives no meaning. -/
def Obligations.DataProcessingToPc : Prop :=
  ∀ (i : Instr) (op : DpOp) (c : Cond) (sBit : Bool) (rn : RegNo) (o : Operand2) (s : State) (md : Mode),
    viewOf i = .dp op c sBit rn 15#4 o → s.Executes md c → o.amountIsR15 = false → op.isTest = false →
    (sBit = true ∧ md = .usr → exec i s = .refused .pcWithFlagsInUserMode) ∧
      (¬ (sBit = true ∧ md = .usr) →
        ∃ t, exec i s = .next t ∧
          t.pc = (op.table (s.read md rn o.ahead) (o.value s md).value s.flags.c) &&& 0xFFFFFFFC#32 ∧
          (if sBit then s.spsr md = some t.cpsr else t.cpsr = s.cpsr) ∧ t.bankHazard = false ∧ t.sys.pipe = [] ∧
          s.KeepsRegs t ∧ s.KeepsSpecial t ∧ s.KeepsMemory t)

/-- TST, TEQ, CMP and CMN with Rd = R15 (rule R253): in a privileged mode the SPSR moves to the CPSR, in User mode nothing
happens; the pc goes on and no register is written.  That all four tests with Rd = R15 are the P forms is the spec's own
supply (G3, log entry 39). -/
def Obligations.TestToPsr : Prop :=
  ∀ (i : Instr) (op : DpOp) (c : Cond) (sBit : Bool) (rn : RegNo) (o : Operand2) (s : State) (md : Mode),
    viewOf i = .dp op c sBit rn 15#4 o → s.Executes md c → o.amountIsR15 = false → op.isTest = true →
    ∃ t, exec i s = .next t ∧ t.cpsr = (s.spsr md).getD s.cpsr ∧ s.KeepsRegs t ∧ s.KeepsSpecial t ∧ s.KeepsMemory t ∧
      s.WentOn t

/-! ## PSR transfer -/

/-- MRS (rule R291): all 32 bits of the CPSR, or of the SPSR of a privileged mode, to Rd alone.  That a PSR stores all 32
bits is decision D8 of the spec (log entry 24). -/
def Obligations.MrsCompletes : Prop :=
  ∀ (i : Instr) (c : Cond) (sel : PsrSel) (rd : RegNo) (s : State) (md : Mode),
    viewOf i = .mrs c sel rd → s.Executes md c → rd ≠ 15#4 → (sel = .spsr → md ≠ .usr) →
    ∃ t, exec i s = .next t ∧ s.KeepsRegsBut t md rd ∧
      (∀ v, (if sel = .cpsr then some s.cpsr else s.spsr md) = some v → t.Holds md rd v) ∧ t.cpsr = s.cpsr ∧
      s.KeepsSpecial t ∧ s.KeepsMemory t ∧ s.WentOn t

/-- MSR of a register to a whole PSR (rules R292, R293): in a privileged mode all 32 bits of the CPSR or of the SPSR; in User
mode the flags of the CPSR alone.  That a PSR stores all 32 bits is decision D8 of the spec (log entry 24). -/
def Obligations.MsrCompletes : Prop :=
  ∀ (i : Instr) (c : Cond) (sel : PsrSel) (rm : RegNo) (s : State) (md : Mode),
    viewOf i = .msr c sel rm → s.Executes md c → rm ≠ 15#4 → (sel = .spsr → md ≠ .usr) →
    ∃ t, exec i s = .next t ∧
      t.cpsr.extractLsb' 28 4 =
        (if sel = .cpsr then (s.read md rm 8#32).extractLsb' 28 4 else s.cpsr.extractLsb' 28 4) ∧
      t.cpsr.extractLsb' 0 28 =
        (if sel = .cpsr ∧ md ≠ .usr then (s.read md rm 8#32).extractLsb' 0 28 else s.cpsr.extractLsb' 0 28) ∧
      (∀ m, t.spsr m = if sel = .spsr ∧ m = md then some (s.read md rm 8#32) else s.spsr m) ∧
      t.cp15 = s.cp15 ∧ s.KeepsRegs t ∧ s.KeepsMemory t ∧ s.WentOn t

/-- MSR of a register or an immediate to the flag bits of a PSR (rules R294, R295): its bits [31:28] change, in every mode for
the CPSR, and bits [27:0] do not.  They get bits [31:28] of Rm, or of the immediate rotated right by twice the rotate field. -/
def Obligations.MsrFlagsCompletes : Prop :=
  ∀ (i : Instr) (c : Cond) (sel : PsrSel) (f : FlagSource) (s : State) (md : Mode),
    viewOf i = .msrFlags c sel f → s.Executes md c → f.isR15 = false → (sel = .spsr → md ≠ .usr) →
    (match f with
      | .reg rm => f.value s md = s.read md rm 8#32
      | .imm rot imm =>
        (f.value s md).toNat =
          imm.toNat / 2 ^ (2 * rot.toNat) + imm.toNat % 2 ^ (2 * rot.toNat) * 2 ^ (32 - 2 * rot.toNat)) ∧
    ∃ t, exec i s = .next t ∧
      (∀ v, (if sel = .cpsr then some s.cpsr else s.spsr md) = some v →
        (if sel = .cpsr then some t.cpsr else t.spsr md) =
          some ((f.value s md).extractLsb' 28 4 ++ v.extractLsb' 0 28 : BitVec 32)) ∧
      (sel = .spsr → t.cpsr = s.cpsr) ∧ (∀ m, (sel = .spsr ∧ m = md) ∨ t.spsr m = s.spsr m) ∧
      t.cp15 = s.cp15 ∧ s.KeepsRegs t ∧ s.KeepsMemory t ∧ s.WentOn t

/-! ## Multiply -/

/-- MUL and MLA without S (rules R301, R302, R304): the low 32 bits of the product, and of product plus Rn, to Rd alone; MUL
with Rd = Rm gives 0; MLA with Rd = Rm gives Rd a value that nothing fixes; R15 in an operand has no meaning in the spec.
With S = 1, N and Z follow the result, V is kept and C is any value (rule R303); the control bits are kept.  What is any
value is a free value of the model (log entry 38). -/
def Obligations.MultiplyCompletes : Prop :=
  ∀ (i : Instr) (c : Cond) (sBit acc : Bool) (rd rn rs rm : RegNo) (s : State) (md : Mode),
    viewOf i = (if acc then .mla c sBit rd rn rs rm else .mul c sBit rd rs rm) → s.Executes md c →
    rd ≠ 15#4 → rs ≠ 15#4 → rm ≠ 15#4 → (acc = true → rn ≠ 15#4) →
    ∃ t, exec i s = .next t ∧ s.KeepsRegsBut t md rd ∧
      (rd ≠ rm → t.Holds md rd
        (BitVec.ofNat 32 ((s.read md rm 8#32).toNat * (s.read md rs 8#32).toNat +
          if acc then (s.read md rn 8#32).toNat else 0))) ∧
      (rd = rm → acc = false → t.Holds md rd 0) ∧
      t.cpsr.extractLsb' 0 28 = s.cpsr.extractLsb' 0 28 ∧ t.flags.v = s.flags.v ∧
      (sBit = false → t.flags = s.flags) ∧
      (sBit = true → ∀ p, md.bank rd = some p →
        (t.flags.n = true ↔ (t.preg p).toInt < 0) ∧ (t.flags.z = true ↔ t.preg p = 0)) ∧
      s.KeepsSpecial t ∧ s.KeepsMemory t ∧ s.WentOn t

/-! ## Swap -/

/-- SWP and SWPB (rules R371, R372), in two clauses.  With the MMU off: Rd gets the old word (rotated by the address, as LDR) or
the old byte (zero-extended), the source goes to memory at the same address, whether or not the location is cached (rule R163).
In any configuration: if the locked read and write answer the old value, the swap completes with that value in Rd, the source
at the physical address that the translation of the write gives.  Nothing else changes; Rm is read before Rd is written. -/
def Obligations.SwapCompletes : Prop :=
  ∀ (i : Instr) (sz : Size) (c : Cond) (rn rd rm : RegNo) (s : State) (md : Mode),
    viewOf i = .swap sz c rn rd rm → s.Executes md c → rd ≠ 15#4 → rn ≠ 15#4 → rm ≠ 15#4 →
    (s.cp15.mmuOn = false → s.sys.asserts .lockedRead (s.read md rn 8#32) = false →
      s.sys.asserts .lockedWrite (s.read md rn 8#32) = false → s.sys.isVolatile (s.read md rn 8#32) = false →
      misaligned s.cp15 sz (s.read md rn 8#32) = false →
      ∃ t, exec i s = .next t ∧ s.KeepsRegsBut t md rd ∧
        t.Holds md rd (sz.loaded s.cp15.bigEndian (s.read md rn 8#32)
          (s.sys.physWord ((s.read md rn 8#32).toNat / 4))) ∧
        (∀ a, t.sys.physByte a =
          (storedByte sz s.cp15.bigEndian (s.read md rn 8#32) (s.read md rm 8#32) a).getD (s.sys.physByte a)) ∧
        t.cpsr = s.cpsr ∧ s.KeepsSpecial t ∧ s.WentOn t) ∧
    ∀ (old : Word) (m : MemSys),
      swapAccess s.cp15 sz (s.read md rn 8#32) md.privileged (s.read md rm 8#32) s.sys = .ok old m →
      ∃ t, exec i s = .next t ∧ s.KeepsRegsBut t md rd ∧ t.Holds md rd old ∧
        (∀ old' m1 tr m2, lockedRead s.cp15 sz (s.read md rn 8#32) md.privileged s.sys = .ok old' m1 →
          translate s.cp15 (s.read md rn 8#32) true md.privileged m1 = .ok tr m2 →
          old' = old ∧ ∀ a, t.sys.physByte a =
            (storedByte sz s.cp15.bigEndian tr.pa (s.read md rm 8#32) a).getD (s.sys.physByte a)) ∧
        t.cpsr = s.cpsr ∧ s.KeepsSpecial t ∧ s.WentOn t

/-- A swap whose access aborts is as though it had not executed (rule R374): the data abort is taken with the fault in FSR
and FAR and no other register has changed. No byte of memory changes if the read aborts; with the MMU off none does outside
the bytes the swap would have stored, where an externally aborted write may have been made (rule R150).  What an externally
aborted write leaves is the model's free choice (log entry 17). -/
def Obligations.SwapAborts : Prop :=
  ∀ (i : Instr) (sz : Size) (c : Cond) (rn rd rm : RegNo) (s : State) (md : Mode) (f : MemFault) (m : MemSys),
    viewOf i = .swap sz c rn rd rm → s.Executes md c → rd ≠ 15#4 → rn ≠ 15#4 → rm ≠ 15#4 →
    swapAccess s.cp15 sz (s.read md rn 8#32) md.privileged (s.read md rm 8#32) s.sys = .abort f m →
    ∃ t, exec i s = .next t ∧ s.Entered t .dataAbort ∧ s.Records t f ∧
      ((∀ old m1, lockedRead s.cp15 sz (s.read md rn 8#32) md.privileged s.sys ≠ .ok old m1) → s.KeepsMemory t) ∧
      (s.cp15.mmuOn = false → ∀ a,
        storedByte sz s.cp15.bigEndian (s.read md rn 8#32) (s.read md rm 8#32) a = none →
        t.sys.physByte a = s.sys.physByte a)

/-! ## Single data transfer -/

/-- A load of plain memory with the MMU off completes (rules R90, R91, R312 to R315, R318, R319, R322): Rd gets the word at the
address, rotated right by 8 times the low address bits, or the byte, zero-extended; for Rd = R15 the pc gets it, bits [1:0]
dropped (decision D4 of the spec, log entry 22); Rn gets the modified base if the form writes it back; nothing else changes.
With write-back to Rd = Rn the register's value is open (rule R324, log entry 32) and not stated. -/
def Obligations.LoadCompletes : Prop :=
  ∀ (i : Instr) (sz : Size) (c : Cond) (ix : Indexing) (up : Bool) (rn rd : RegNo) (off : Offset) (s : State) (md : Mode),
    viewOf i = .load sz c ix up rn rd off → s.Executes md c → transferRestriction ix rn off = none →
    s.FlatAt .read (transferAddress s md ix up rn off) →
    misaligned s.cp15 sz (transferAddress s md ix up rn off) = false →
    ∃ t, exec i s = .next t ∧
      (∀ p, md.bank rd = some p ∨ (ix.writesBack = true ∧ md.bank rn = some p) ∨ t.preg p = s.preg p) ∧
      (ix.writesBack = true → rd ≠ rn → t.Holds md rn (modifiedBase s md up rn off)) ∧
      ((ix.writesBack = true → rd ≠ rn) →
        (if rd = 15#4 then
          t.pc = (sz.loaded s.cp15.bigEndian (transferAddress s md ix up rn off)
            (s.sys.physWord ((transferAddress s md ix up rn off).toNat / 4))) &&& 0xFFFFFFFC#32
         else
          t.Holds md rd (sz.loaded s.cp15.bigEndian (transferAddress s md ix up rn off)
            (s.sys.physWord ((transferAddress s md ix up rn off).toNat / 4))))) ∧
      (rd ≠ 15#4 → s.WentOn t) ∧ t.cpsr = s.cpsr ∧ s.KeepsSpecial t ∧ s.KeepsMemory t

/-- A load in any configuration (MMU, cache, devices): if its access answers `v`, the load completes with `v` in Rd, or in the
pc, bits [1:0] dropped (rule R32, decision D4 of the spec, log entry 22), if Rd = R15 (rules R312 to R315, R318, R319).  Rn gets
the modified base if the form writes it back; nothing else changes.  With write-back to Rd = Rn the load completes too, as log
entry 32 has it, and the register's value is open (rule R324) and not stated. -/
def Obligations.LoadDelivers : Prop :=
  ∀ (i : Instr) (sz : Size) (c : Cond) (ix : Indexing) (up : Bool) (rn rd : RegNo) (off : Offset) (s : State) (md : Mode)
    (v : Word) (m : MemSys),
    viewOf i = .load sz c ix up rn rd off → s.Executes md c → transferRestriction ix rn off = none →
    memRead s.cp15 sz (transferAddress s md ix up rn off) (ix.privilege md) s.sys = .ok v m →
    ∃ t, exec i s = .next t ∧
      (∀ p, md.bank rd = some p ∨ (ix.writesBack = true ∧ md.bank rn = some p) ∨ t.preg p = s.preg p) ∧
      (ix.writesBack = true → rd ≠ rn → t.Holds md rn (modifiedBase s md up rn off)) ∧
      ((ix.writesBack = true → rd ≠ rn) → if rd = 15#4 then t.pc = v &&& 0xFFFFFFFC#32 else t.Holds md rd v) ∧
      (rd ≠ 15#4 → s.WentOn t) ∧ t.cpsr = s.cpsr ∧ s.KeepsSpecial t ∧ s.KeepsMemory t

/-- A load whose access faults takes the data abort (rule R325): the base is written back if the form asks for it, no other
register changes (Rd keeps its value: decision D3 of the spec, log entry 21), memory is as before, and FSR and FAR hold the
fault. -/
def Obligations.LoadAborts : Prop :=
  ∀ (i : Instr) (sz : Size) (c : Cond) (ix : Indexing) (up : Bool) (rn rd : RegNo) (off : Offset) (s : State) (md : Mode)
    (f : MemFault) (m : MemSys),
    viewOf i = .load sz c ix up rn rd off → s.Executes md c → transferRestriction ix rn off = none →
    memRead s.cp15 sz (transferAddress s md ix up rn off) (ix.privilege md) s.sys = .abort f m →
    ∃ t, exec i s = .next t ∧
      (if ix.writesBack then s.write md rn (modifiedBase s md up rn off) else s).Entered t .dataAbort ∧
      s.Records t f ∧ s.KeepsMemory t

/-- A store completes (rules R316, R317, R320, R321, R322), in two clauses.  With the MMU off: exactly the bytes of the form's
width at the address change, to Rd or for R15 to `ia + 12`; with write-back to Rd = Rn the value is open (rule R324) and only
the place is stated.  In any configuration (MMU, cache, write buffer): if the access answers, the store completes, and the bytes
at the physical address of the translation change, unless it is a location that asserts ABORT, where a buffered write may be
lost (rule R152; the model's free choice, log entry 18).  Rn holds the modified base if the form writes it back; nothing else
changes. -/
def Obligations.StoreCompletes : Prop :=
  ∀ (i : Instr) (sz : Size) (c : Cond) (ix : Indexing) (up : Bool) (rn rd : RegNo) (off : Offset) (s : State) (md : Mode),
    viewOf i = .store sz c ix up rn rd off → s.Executes md c → transferRestriction ix rn off = none →
    (s.cp15.mmuOn = false → s.sys.asserts .write (transferAddress s md ix up rn off) = false →
      misaligned s.cp15 sz (transferAddress s md ix up rn off) = false →
      ∃ t, exec i s = .next t ∧
        (∀ p, (ix.writesBack = true ∧ md.bank rn = some p) ∨ t.preg p = s.preg p) ∧
        (ix.writesBack = true → rd ≠ rn → t.Holds md rn (modifiedBase s md up rn off)) ∧
        ((ix.writesBack = true → rd ≠ rn) → ∀ a, t.sys.physByte a =
          (storedByte sz s.cp15.bigEndian (transferAddress s md ix up rn off)
            (if rd = 15#4 then s.pc + 12#32 else s.read md rd 12#32) a).getD (s.sys.physByte a)) ∧
        (∀ v a, storedByte sz s.cp15.bigEndian (transferAddress s md ix up rn off) v a = none →
          t.sys.physByte a = s.sys.physByte a) ∧
        t.cpsr = s.cpsr ∧ s.KeepsSpecial t ∧ s.WentOn t) ∧
    ∀ m : MemSys, baseIsData ix rn rd = false →
      memWrite s.cp15 .single sz (transferAddress s md ix up rn off) (ix.privilege md) (storedValue s md rd) s.sys =
        .ok () m →
      ∃ t, exec i s = .next t ∧
        (∀ p, (ix.writesBack = true ∧ md.bank rn = some p) ∨ t.preg p = s.preg p) ∧
        (ix.writesBack = true → t.Holds md rn (modifiedBase s md up rn off)) ∧
        (∀ tr m1, translate s.cp15 (transferAddress s md ix up rn off) true (ix.privilege md) s.sys = .ok tr m1 →
          s.sys.asserts .write tr.pa = false → ∀ a, t.sys.physByte a =
            (storedByte sz s.cp15.bigEndian tr.pa (if rd = 15#4 then s.pc + 12#32 else s.read md rd 12#32) a).getD
              (s.sys.physByte a)) ∧
        t.cpsr = s.cpsr ∧ s.KeepsSpecial t ∧ s.WentOn t

/-- The frame of every store in every configuration, ended well or aborted (rules R92, R93, R325): a byte of memory changes
only where the form stores, at the physical address the translation gives; and nowhere if there is no translation.  What an
externally aborted write leaves is the model's free choice (log entry 17); with write-back to Rd = Rn see log entry 32. -/
def Obligations.StoreFrame : Prop :=
  ∀ (i : Instr) (sz : Size) (c : Cond) (ix : Indexing) (up : Bool) (rn rd : RegNo) (off : Offset) (s t : State) (md : Mode),
    viewOf i = .store sz c ix up rn rd off → s.Executes md c → baseIsData ix rn rd = false → exec i s = .next t →
    (∀ tr m1, translate s.cp15 (transferAddress s md ix up rn off) true (ix.privilege md) s.sys = .ok tr m1 →
      ∀ a, storedByte sz s.cp15.bigEndian tr.pa (storedValue s md rd) a = none → t.sys.physByte a = s.sys.physByte a) ∧
      ((∀ tr m1, translate s.cp15 (transferAddress s md ix up rn off) true (ix.privilege md) s.sys ≠ .ok tr m1) →
        s.KeepsMemory t) ∧
      (∀ p, (ix.writesBack = true ∧ md.bank rn = some p) ∨ p = .r14Abt ∨ t.preg p = s.preg p)

/-- A store whose access faults takes the data abort with the base written back, and no byte of memory changes if the MMU found
the fault (rule R325). -/
def Obligations.StoreAborts : Prop :=
  ∀ (i : Instr) (sz : Size) (c : Cond) (ix : Indexing) (up : Bool) (rn rd : RegNo) (off : Offset) (s : State) (md : Mode)
    (f : MemFault) (m : MemSys),
    viewOf i = .store sz c ix up rn rd off → s.Executes md c → transferRestriction ix rn off = none →
    baseIsData ix rn rd = false →
    memWrite s.cp15 .single sz (transferAddress s md ix up rn off) (ix.privilege md) (storedValue s md rd) s.sys =
      .abort f m →
    ∃ t, exec i s = .next t ∧
      (if ix.writesBack then s.write md rn (modifiedBase s md up rn off) else s).Entered t .dataAbort ∧
      s.Records t f ∧
      ((∀ tr m1, translate s.cp15 (transferAddress s md ix up rn off) true (ix.privilege md) s.sys ≠ .ok tr m1) →
        s.KeepsMemory t)

/-- The alignment fault (rules R88, R89, R343, R371): with Control.A set, a word load or store, a SWP, an LDM or an STM of any
form whose address `a` is not a multiple of 4 takes the data abort, with the alignment status in FSR and `a` in FAR, whatever the
MMU says; for LDM and STM `a` is the address of the first transfer, which is the first to fault; memory is as before. -/
def Obligations.AlignmentFault : Prop :=
  ∀ (i : Instr) (c : Cond) (s : State) (md : Mode) (a : Word), s.Executes md c → s.cp15.control.getLsbD 1 = true →
    a.toNat % 4 ≠ 0 →
    ((∃ ix up rn rd off, (viewOf i = .load .word c ix up rn rd off ∨ viewOf i = .store .word c ix up rn rd off) ∧
        transferRestriction ix rn off = none ∧ a = transferAddress s md ix up rn off) ∨
      (∃ rn rd rm, viewOf i = .swap .word c rn rd rm ∧ rd ≠ 15#4 ∧ rn ≠ 15#4 ∧ rm ≠ 15#4 ∧ a = s.read md rn 8#32) ∨
      ∃ pre up w rn list,
        (viewOf i = .ldm c pre up w rn list ∨ (viewOf i = .ldmRestore c pre up w rn list ∧ md ≠ .usr) ∨
          (viewOf i = .ldmUser c pre up w rn list ∧ md ≠ .usr ∧ w = false) ∨ viewOf i = .stm c pre up w rn list ∨
          (viewOf i = .stmUser c pre up w rn list ∧ md ≠ .usr ∧ w = false)) ∧
        rn ≠ 15#4 ∧ list ≠ 0#16 ∧ a = blockStart pre up (s.read md rn 8#32) list) →
    ∃ t, exec i s = .next t ∧ t.mode = some .abt ∧ t.pc = 0x10#32 ∧ t.preg .r14Abt = s.pc + 8#32 ∧
      (t.cp15.fsrStatus = 1#4 ∨ t.cp15.fsrStatus = 3#4) ∧ t.cp15.far = a ∧ s.KeepsMemory t

/-- The T forms make their transfer without privilege in every mode (rules R94, R318 to R321): at an address that only a
privileged access may reach (AP = 01 in a client domain, rule R114), LDRT, LDRBT, STRT and STRBT take a permission fault from
every mode, recorded in FSR and FAR (rule R120). -/
def Obligations.UserTransferPrivilege : Prop :=
  ∀ (i : Instr) (sz : Size) (c : Cond) (up : Bool) (rn rd : RegNo) (off : Offset) (s : State) (md : Mode) (e : TlbEntry),
    viewOf i = .load sz c .postUser up rn rd off ∨ viewOf i = .store sz c .postUser up rn rd off →
    s.Executes md c → transferRestriction .postUser rn off = none → s.cp15.mmuOn = true →
    misaligned s.cp15 sz (s.read md rn 8#32) = false → s.sys.tlbMatches (s.read md rn 8#32) = [e] →
    s.cp15.domainAccess e.domain = 1#2 → e.map.permission (s.read md rn 8#32) = 1#2 →
    (s.cp15.system && s.cp15.rom) = false →
    ∃ t, exec i s = .next t ∧ t.mode = some .abt ∧ t.pc = 0x10#32 ∧ t.preg .r14Abt = s.pc + 8#32 ∧
      t.cp15.fsrStatus = (if e.map.isSection then 0b1101#4 else 0b1111#4) ∧ t.cp15.fsrDomain = e.domain ∧
      t.cp15.far = s.read md rn 8#32 ∧ s.KeepsMemory t

/-! ## Block data transfer -/

/-- LDM without the S bit (rules R341, R343 to R345, R352), in two clauses.  With the MMU off, from plain memory: each listed
register gets the word at its address, the lowest register the lowest address, unrotated; R15 in the list is a branch.  In any
configuration: if the reads answer the words `ws`, each listed register gets its word, in the order of the list.  Rn gets `final`
with W = 1 unless it is in the list; nothing else changes.  Bits [1:0] of the loaded pc are decision D4 of the spec (log entry
22), addresses past the top decision D5 (log entry 23). -/
def Obligations.LoadMultipleCompletes : Prop :=
  ∀ (i : Instr) (c : Cond) (pre up w : Bool) (rn : RegNo) (list : BitVec 16) (s : State) (md : Mode),
    viewOf i = .ldm c pre up w rn list → s.Executes md c → rn ≠ 15#4 → list ≠ 0#16 →
    ((∀ r, listed list r → s.FlatAt .read (blockAddress s md pre up rn list r) ∧
        misaligned s.cp15 .word (blockAddress s md pre up rn list r) = false) →
      ∃ t, exec i s = .next t ∧
        (∀ r, r ≠ 15#4 → listed list r → t.Holds md r (blockWord s md pre up rn list r)) ∧
        (w = true → ¬ listed list rn → t.Holds md rn (blockFinal up (s.read md rn 8#32) list)) ∧
        (∀ p, (∃ r, listed list r ∧ md.bank r = some p) ∨ (w = true ∧ md.bank rn = some p) ∨ t.preg p = s.preg p) ∧
        (listed list 15#4 → t.pc = blockWord s md pre up rn list 15#4 &&& 0xFFFFFFFC#32) ∧
        (¬ listed list 15#4 → s.WentOn t) ∧ t.cpsr = s.cpsr ∧ s.KeepsSpecial t ∧ s.KeepsMemory t) ∧
    ∀ (ws : List Word) (m : MemSys),
      readBlock s.cp15 md.privileged (listAddresses s md pre up rn list) s.sys = .done ws m →
      ∃ t, exec i s = .next t ∧ ws.length = (listRegisters list).length ∧
        (∀ r v, ((listRegisters list).zip ws).lookup r = some v →
          if r = 15#4 then t.pc = v &&& 0xFFFFFFFC#32 else t.Holds md r v) ∧
        (w = true → ¬ listed list rn → t.Holds md rn (blockFinal up (s.read md rn 8#32) list)) ∧
        (∀ p, (∃ r, listed list r ∧ md.bank r = some p) ∨ (w = true ∧ md.bank rn = some p) ∨ t.preg p = s.preg p) ∧
        (¬ listed list 15#4 → s.WentOn t) ∧ t.cpsr = s.cpsr ∧ s.KeepsSpecial t ∧ s.KeepsMemory t

/-- LDM with the S bit and R15 in the list, in a privileged mode (rule R346), in two clauses, with the MMU off and in any
configuration: as without the S bit, in the bank of the mode before the change, and the SPSR of that mode to the CPSR.  Bits
[1:0] of the loaded pc are decision D4 of the spec (log entry 22). -/
def Obligations.LoadMultipleRestores : Prop :=
  ∀ (i : Instr) (c : Cond) (pre up w : Bool) (rn : RegNo) (list : BitVec 16) (s : State) (md : Mode),
    viewOf i = .ldmRestore c pre up w rn list → s.Executes md c → md ≠ .usr → rn ≠ 15#4 →
    ((∀ r, listed list r → s.FlatAt .read (blockAddress s md pre up rn list r) ∧
        misaligned s.cp15 .word (blockAddress s md pre up rn list r) = false) →
      ∃ t, exec i s = .next t ∧ s.spsr md = some t.cpsr ∧
        t.pc = blockWord s md pre up rn list 15#4 &&& 0xFFFFFFFC#32 ∧
        (∀ r, r ≠ 15#4 → listed list r → t.Holds md r (blockWord s md pre up rn list r)) ∧
        (w = true → ¬ listed list rn → t.Holds md rn (blockFinal up (s.read md rn 8#32) list)) ∧
        (∀ p, (∃ r, listed list r ∧ md.bank r = some p) ∨ (w = true ∧ md.bank rn = some p) ∨ t.preg p = s.preg p) ∧
        s.KeepsSpecial t ∧ s.KeepsMemory t) ∧
    ∀ (ws : List Word) (m : MemSys),
      readBlock s.cp15 md.privileged (listAddresses s md pre up rn list) s.sys = .done ws m →
      ∃ t, exec i s = .next t ∧ ws.length = (listRegisters list).length ∧ s.spsr md = some t.cpsr ∧
        (∀ r v, ((listRegisters list).zip ws).lookup r = some v →
          if r = 15#4 then t.pc = v &&& 0xFFFFFFFC#32 else t.Holds md r v) ∧
        (w = true → ¬ listed list rn → t.Holds md rn (blockFinal up (s.read md rn 8#32) list)) ∧
        (∀ p, (∃ r, listed list r ∧ md.bank r = some p) ∨ (w = true ∧ md.bank rn = some p) ∨ t.preg p = s.preg p) ∧
        s.KeepsSpecial t ∧ s.KeepsMemory t

/-- LDM with the S bit and without R15, in a privileged mode (rule R350), in two clauses, with the MMU off and in any
configuration: the User bank is loaded, the base is the current mode's, and the bank hazard of rule R512 stands for the next
instruction. -/
def Obligations.LoadMultipleUserBank : Prop :=
  ∀ (i : Instr) (c : Cond) (pre up : Bool) (rn : RegNo) (list : BitVec 16) (s : State) (md : Mode),
    viewOf i = .ldmUser c pre up false rn list → s.Executes md c → md ≠ .usr → rn ≠ 15#4 → list ≠ 0#16 →
    ((∀ r, listed list r → s.FlatAt .read (blockAddress s md pre up rn list r) ∧
        misaligned s.cp15 .word (blockAddress s md pre up rn list r) = false) →
      ∃ t, exec i s = .next t ∧
        (∀ r, listed list r → t.Holds .usr r (blockWord s md pre up rn list r)) ∧
        (∀ p, (∃ r, listed list r ∧ Mode.usr.bank r = some p) ∨ t.preg p = s.preg p) ∧
        t.pc = s.pc + 4#32 ∧ t.bankHazard = true ∧ t.cpsr = s.cpsr ∧ s.KeepsSpecial t ∧ s.KeepsMemory t) ∧
    ∀ (ws : List Word) (m : MemSys),
      readBlock s.cp15 md.privileged (listAddresses s md pre up rn list) s.sys = .done ws m →
      ∃ t, exec i s = .next t ∧ ws.length = (listRegisters list).length ∧
        (∀ r v, ((listRegisters list).zip ws).lookup r = some v → t.Holds .usr r v) ∧
        (∀ p, (∃ r, listed list r ∧ Mode.usr.bank r = some p) ∨ t.preg p = s.preg p) ∧
        t.pc = s.pc + 4#32 ∧ t.bankHazard = true ∧ t.cpsr = s.cpsr ∧ s.KeepsSpecial t ∧ s.KeepsMemory t

/-- STM, with and without the S bit (rules R341, R347, R348, R351, R352), in two clauses.  With the MMU off: each listed
register, of the User bank with S = 1, stands at its address afterwards, R15 as `ia + 12`, the base as `final` if it is written
back and not the first stored; no other byte of memory changes.  In any configuration: if the transfers, each at its address and
with its value, answer well, the instruction completes with the memory they leave.  No register changes but Rn with W = 1. -/
def Obligations.StoreMultipleCompletes : Prop :=
  ∀ (i : Instr) (user : Bool) (c : Cond) (pre up w : Bool) (rn : RegNo) (list : BitVec 16) (s : State) (md : Mode),
    viewOf i = (if user then .stmUser c pre up w rn list else .stm c pre up w rn list) → s.Executes md c →
    rn ≠ 15#4 → list ≠ 0#16 → (user = true → md ≠ .usr ∧ w = false) →
    (s.cp15.mmuOn = false →
      (∀ r, listed list r → s.sys.asserts .write (blockAddress s md pre up rn list r) = false ∧
        misaligned s.cp15 .word (blockAddress s md pre up rn list r) = false) →
      ∃ t, exec i s = .next t ∧
        (∀ r, listed list r → ¬ (w = true ∧ r = rn ∧ ∃ q : RegNo, listed list q ∧ q.toNat < r.toNat) →
          t.sys.physWord ((blockAddress s md pre up rn list r).toNat / 4) =
            s.readAs md (if user then .usr else md) r 12#32) ∧
        (w = true → listed list rn → (∃ q : RegNo, listed list q ∧ q.toNat < rn.toNat) →
          t.sys.physWord ((blockAddress s md pre up rn list rn).toNat / 4) =
            blockFinal up (s.read md rn 8#32) list) ∧
        (∀ a, (∀ r, listed list r → a / 4 ≠ (blockAddress s md pre up rn list r).toNat / 4) →
          t.sys.physByte a = s.sys.physByte a) ∧
        (if w then s.KeepsRegsBut t md rn ∧ t.Holds md rn (blockFinal up (s.read md rn 8#32) list) else s.KeepsRegs t) ∧
        t.cpsr = s.cpsr ∧ s.KeepsSpecial t ∧ s.WentOn t) ∧
    ∀ m : MemSys,
      writeBlock s.cp15 md.privileged .single (blockTransfers s md (if user then .usr else md) pre up w rn list) s.sys =
        .ok () m →
      ∃ t, exec i s = .next t ∧ (∀ a, t.sys.physByte a = m.physByte a) ∧
        (if w then s.KeepsRegsBut t md rn ∧ t.Holds md rn (blockFinal up (s.read md rn 8#32) list) else s.KeepsRegs t) ∧
        t.cpsr = s.cpsr ∧ s.KeepsSpecial t ∧ s.WentOn t

/-- An LDM whose transfer aborts (rule R355), in every configuration and form: the data abort is taken from a state `u` that
differs from `s` in registers alone, with the fault in FSR and FAR.  In `u` the registers of the transfers before the aborting
one hold their words, in the User bank for the User-bank form; the base holds `final` with W = 1 and else what it held, even if a
transfer loaded it; every other register is as before; the pc was not loaded and the CPSR not changed; memory is as before. -/
def Obligations.LoadMultipleAborts : Prop :=
  ∀ (i : Instr) (c : Cond) (pre up w : Bool) (rn : RegNo) (list : BitVec 16) (s : State) (md dst : Mode)
    (ws : List Word) (f : MemFault) (m : MemSys),
    (viewOf i = .ldm c pre up w rn list ∧ dst = md) ∨ (viewOf i = .ldmRestore c pre up w rn list ∧ md ≠ .usr ∧ dst = md) ∨
      (viewOf i = .ldmUser c pre up w rn list ∧ md ≠ .usr ∧ w = false ∧ dst = .usr) →
    s.Executes md c → rn ≠ 15#4 → list ≠ 0#16 →
    readBlock s.cp15 md.privileged (listAddresses s md pre up rn list) s.sys = .aborted ws f m →
    ∃ u t : State, exec i s = .next t ∧ u.Entered t .dataAbort ∧ s.Records t f ∧ s.KeepsMemory t ∧
      u.pc = s.pc ∧ u.cpsr = s.cpsr ∧ (∀ k, u.spsr k = s.spsr k) ∧
      (∀ r w', ((listRegisters list).zip ws).lookup r = some w' → dst.bank r ≠ md.bank rn → u.Holds dst r w') ∧
      (w = true → u.Holds md rn (blockFinal up (s.read md rn 8#32) list)) ∧
      (∀ p, (∃ r, (((listRegisters list).zip ws).lookup r).isSome = true ∧ dst.bank r = some p ∧ md.bank rn ≠ some p) ∨
        (w = true ∧ md.bank rn = some p) ∨ u.preg p = s.preg p)

/-- The frame of an STM in every configuration, ended well or aborted (rules R347, R351, R354): a byte of memory changes only in
the words at the physical addresses to which its transfers go, each as translated when its turn comes; with the MMU off only at
the addresses of the listed registers; and of the registers only Rn with W = 1 and, on an abort, R14_abt.  Which later words are
written after an abort is decision D7 of the spec (log entry 19). -/
def Obligations.StoreMultipleFrame : Prop :=
  ∀ (i : Instr) (user : Bool) (c : Cond) (pre up w : Bool) (rn : RegNo) (list : BitVec 16) (s t : State) (md : Mode),
    viewOf i = (if user then .stmUser c pre up w rn list else .stm c pre up w rn list) → s.Executes md c →
    exec i s = .next t →
    (∀ a, (∀ pa ∈ blockPlaces s.cp15 md.privileged .single
          (blockTransfers s md (if user then .usr else md) pre up w rn list) s.sys, a / 4 ≠ pa.toNat / 4) →
        t.sys.physByte a = s.sys.physByte a) ∧
      (s.cp15.mmuOn = false →
        ∀ a, (∀ r, listed list r → a / 4 ≠ (blockAddress s md pre up rn list r).toNat / 4) →
          t.sys.physByte a = s.sys.physByte a) ∧
      (∀ p, (w = true ∧ md.bank rn = some p) ∨ p = .r14Abt ∨ t.preg p = s.preg p)

/-! ## Branch -/

/-- B and BL (rules R232, R233, R234): the pc goes to `ia + 8` plus four times the signed offset; BL leaves `ia + 4` in R14
of the current mode, and nothing else changes.  A target past the top of memory wraps: decision D5 of the spec (log entry
23). -/
def Obligations.BranchCompletes : Prop :=
  ∀ (i : Instr) (link : Bool) (c : Cond) (off : BitVec 24) (s : State) (md : Mode),
    viewOf i = (if link then .branchLink c off else .branch c off) → s.Executes md c → isAligned s.pc = true →
    ∃ t, exec i s = .next t ∧ t.pc = s.pc + 8#32 + BitVec.ofInt 32 (4 * off.toInt) ∧
      (if link then s.KeepsRegsBut t md 14#4 ∧ t.Holds md 14#4 (s.pc + 4#32) else s.KeepsRegs t) ∧
      t.cpsr = s.cpsr ∧ t.bankHazard = false ∧ t.sys.pipe = [] ∧ s.KeepsSpecial t ∧ s.KeepsMemory t

/-! ## Exceptions -/

/-- SWI takes the software interrupt; every instruction the device cannot handle takes the undefined instruction trap, in every
mode, and an MRC or MCR of coprocessor 15 takes it in User mode, whatever its fields (rules R380, R385, R387, R390, R392, R395,
R396, R398, R420, R433, R436).  Coprocessor 15 and memory are as before. -/
def Obligations.TrapsTaken : Prop :=
  ∀ (i : Instr) (c : Cond) (e : Exception) (s : State) (md : Mode), s.Executes md c →
    (viewOf i = .swi c ∧ e = .softwareInterrupt) ∨ (viewOf i = .trap c ∧ e = .undefined) ∨
      (md = .usr ∧ e = .undefined ∧
        ∃ zero rd, (∃ src, viewOf i = .cp15Read c zero rd src) ∨ ∃ tgt, viewOf i = .cp15Write c zero rd tgt) →
    ∃ t, exec i s = .next t ∧ s.Entered t e ∧ t.cp15 = s.cp15 ∧ s.KeepsMemory t

/-- The interrupts (rules R437, R438, R440, R450): at a boundary without Reset, an asserted FIQ is taken if F is clear, else
an asserted IRQ if I is clear, before the prefetched word is looked at; R14 gets the address of the next instruction plus 4.
The inputs are data of the model (log entry 10); which I and F count is decision D18 of the spec (log entry 31). -/
def Obligations.InterruptsTaken : Prop :=
  ∀ (s : State) (md : Mode), s.popInputs.1.reset = false → s.Runs md →
    (s.popInputs.1.fiq = true → s.cpsr.getLsbD 6 = false →
      ∃ t, step s = .next t ∧ s.Entered t .fiq ∧ t.cp15 = s.cp15 ∧ s.KeepsMemory t) ∧
      ((s.popInputs.1.fiq = false ∨ s.cpsr.getLsbD 6 = true) → s.popInputs.1.irq = true → s.cpsr.getLsbD 7 = false →
        ∃ t, step s = .next t ∧ s.Entered t .irq ∧ t.cp15 = s.cp15 ∧ s.KeepsMemory t)

/-- A word whose fetch aborted is a prefetch abort when it reaches execution, and FSR and FAR are not written (rules R121,
R434).  That its condition is not tested is decision D17 of the spec (log entry 30). -/
def Obligations.PrefetchAbortTaken : Prop :=
  ∀ (s u : State) (md : Mode),
    s.popInputs.1.reset = false → s.Runs md → pendingInterrupt s.popInputs.1 s = none →
    u = (s.popInputs.2.withSys s.popInputs.2.sys.drainSome).fetched md → u.head = .aborted →
    ∃ t, step s = .next t ∧ s.Entered t .prefetchAbort ∧ t.cp15 = s.cp15 ∧ s.KeepsMemory t

/-- Returning from an exception undoes its entry (rules R252, R431, R439, R460): after the entry of an interrupt or of a
prefetch abort, the return the source prescribes, `SUBS PC,R14,#4`, restores the CPSR and the pc; in between nothing but R14
and the SPSR of the exception's mode has changed.  That the reserved bits come back is decision D8 of the spec (log entry
24). -/
def Obligations.ReturnUndoesEntry : Prop :=
  ∀ (s : State) (md : Mode) (e : Exception), s.Runs md → isAligned s.pc = true →
    e = .irq ∨ e = .fiq ∨ e = .prefetchAbort →
    ∃ t, exec (.subImm .al true 14#4 15#4 0#4 4#8) (s.takeException e) = .next t ∧ t.pc = s.pc ∧ t.cpsr = s.cpsr ∧
      (∀ p, p = e.mode.r14 ∨ t.preg p = s.preg p) ∧ (∀ m, m = e.mode ∨ t.spsr m = s.spsr m) ∧ t.cp15 = s.cp15 ∧
      s.KeepsMemory t

/-! ## Coprocessor 15 -/

/-- MRC of coprocessor 15 in a privileged mode (rules R399, R401, R408, R409, R410): Rd alone gets the ID, the FSR with zeros
in bits [11:8] and a top that nothing fixes, the FAR, or for an invalid register a value that nothing fixes; with Rd = R15
the flags get the top four bits and nothing else of the CPSR changes. Reading changes no coprocessor register.  What is any
value is a free value of the model (log entries 38, 40). -/
def Obligations.Cp15Reads : Prop :=
  ∀ (i : Instr) (c : Cond) (rd : RegNo) (src : Cp15Source) (s : State) (md : Mode),
    viewOf i = .cp15Read c true rd src → s.Executes md c → md ≠ .usr →
    ∃ (t : State) (v : Word), exec i s = .next t ∧
      (match src with
       | .id => v.extractLsb' 4 28 = 0x4104710#28
       | .fsr => v.extractLsb' 0 12 = (0#4 ++ s.cp15.fsrDomain ++ s.cp15.fsrStatus : BitVec 12)
       | .far => v = s.cp15.far
       | .invalid => True) ∧
      (if rd = 15#4 then s.KeepsRegs t ∧ t.cpsr = (v.extractLsb' 28 4 ++ s.cpsr.extractLsb' 0 28 : BitVec 32)
       else s.KeepsRegsBut t md rd ∧ t.Holds md rd v ∧ t.cpsr = s.cpsr) ∧
      s.KeepsSpecial t ∧ s.KeepsMemory t ∧ s.WentOn t

/-- MCR to a register of coprocessor 15 that holds state, in a privileged mode (rules R400, R402, R403, R404): the register
gets Rd, or `ia + 12` for R15, and no other register of coprocessor 15 changes. The Control value has its reserved bits clear
and enables the cache and the write buffer only with the MMU; the Translation Table Base its bits [13:0] clear.  That bits 6
and 10 are stored is decision D15 of the spec (log entry 28). -/
def Obligations.Cp15Writes : Prop :=
  ∀ (i : Instr) (c : Cond) (rd : RegNo) (tgt : Cp15Target) (s : State) (md : Mode) (v : Word),
    viewOf i = .cp15Write c true rd tgt → s.Executes md c → md ≠ .usr →
    v = (if rd = 15#4 then s.pc + 12#32 else s.read md rd 12#32) →
    (tgt = .control → v.extractLsb' 11 21 = 0#21 ∧ ((v.getLsbD 2 || v.getLsbD 3) = true → v.getLsbD 0 = true)) →
    (tgt = .ttb → v.extractLsb' 0 14 = 0#14) → (tgt = .purgeTlb → v.extractLsb' 0 12 = 0#12) →
    ∃ t, exec i s = .next t ∧
      t.cp15.control = (if tgt = .control then v else s.cp15.control) ∧
      t.cp15.ttb = (if tgt = .ttb then v else s.cp15.ttb) ∧ t.cp15.dac = (if tgt = .dac then v else s.cp15.dac) ∧
      t.cp15.fsrStatus = s.cp15.fsrStatus ∧ t.cp15.fsrDomain = s.cp15.fsrDomain ∧ t.cp15.far = s.cp15.far ∧
      s.KeepsRegs t ∧ t.cpsr = s.cpsr ∧ (∀ m, t.spsr m = s.spsr m) ∧ s.KeepsMemory t ∧ s.WentOn t

/-- The flush and purge operations (rules R405, R406, R407): after a TLB flush no entry covers any address; after a purge of
`a` none covers `a`, and no entry goes but those whose section, large page or small page `a` lies in; after an IDC flush no word is cached;
and each leaves the other stores alone.  A purge reaches over the whole 64 kB of a large page, though each of its descriptors serves
4 kB of it (rule R111, log entry 41). -/
def Obligations.FlushAndPurge : Prop :=
  ∀ (i : Instr) (c : Cond) (rd : RegNo) (tgt : Cp15Target) (s t : State) (md : Mode),
    viewOf i = .cp15Write c true rd tgt → s.Executes md c → md ≠ .usr → exec i s = .next t →
    (tgt = .flushTlb → ∀ va, t.sys.tlbMatches va = []) ∧
      (tgt = .purgeTlb → t.sys.tlbMatches (s.read md rd 12#32) = [] ∧
        ∀ va, t.sys.tlbMatches va = (s.sys.tlbMatches va).filter fun e => !e.map.inPage (s.read md rd 12#32)) ∧
      (tgt = .flushIdc → ∀ va, t.sys.cachedWord va = none) ∧
      (tgt ≠ .flushTlb → tgt ≠ .purgeTlb → t.sys.tlb = s.sys.tlb) ∧ (tgt ≠ .flushIdc → t.sys.cache = s.sys.cache)

/-! ## Refusals -/

/-- The operand restrictions for which the spec gives no meaning (file 93, U5 to U13, with the rules that carry them): each
stops by its own name once the condition passes, and does nothing. -/
def Obligations.RestrictionsRefused : Prop :=
  ∀ (i : Instr) (s : State) (md : Mode) (c : Cond), s.Executes md c →
    (∀ op sb rn rd rs ty rm, viewOf i = .dp op c sb rn rd (.shReg rs ty rm) → rs = 15#4 →
      exec i s = .refused .shiftAmountR15) ∧
    (∀ sel rd, viewOf i = .mrs c sel rd → rd = 15#4 → exec i s = .refused .psrTransferR15) ∧
    (∀ sel rd, viewOf i = .mrs c sel rd → rd ≠ 15#4 → sel = .spsr → md = .usr → exec i s = .refused .spsrInUserMode) ∧
    (∀ sel rm, viewOf i = .msr c sel rm → rm = 15#4 → exec i s = .refused .psrTransferR15) ∧
    (∀ sel rm, viewOf i = .msr c sel rm → rm ≠ 15#4 → sel = .spsr → md = .usr → exec i s = .refused .spsrInUserMode) ∧
    (∀ sel f, viewOf i = .msrFlags c sel f → f.isR15 = true → exec i s = .refused .psrTransferR15) ∧
    (∀ sel f, viewOf i = .msrFlags c sel f → f.isR15 = false → sel = .spsr → md = .usr →
      exec i s = .refused .spsrInUserMode) ∧
    (∀ sb rd rs rm, viewOf i = .mul c sb rd rs rm → rd = 15#4 ∨ rs = 15#4 ∨ rm = 15#4 →
      exec i s = .refused .multiplyR15) ∧
    (∀ sb rd rn rs rm, viewOf i = .mla c sb rd rn rs rm → rd = 15#4 ∨ rs = 15#4 ∨ rm = 15#4 ∨ rn = 15#4 →
      exec i s = .refused .multiplyR15) ∧
    (∀ sz rn rd rm, viewOf i = .swap sz c rn rd rm → rd = 15#4 ∨ rn = 15#4 ∨ rm = 15#4 →
      exec i s = .refused .swapR15) ∧
    (∀ sz ix up rn rd off, viewOf i = .load sz c ix up rn rd off ∨ viewOf i = .store sz c ix up rn rd off →
      ix.writesBack = true → rn = 15#4 → exec i s = .refused .writeBackR15) ∧
    (∀ sz ix up rn rd amt ty rm,
      viewOf i = .load sz c ix up rn rd (.reg amt ty rm) ∨ viewOf i = .store sz c ix up rn rd (.reg amt ty rm) →
      (ix.writesBack = true → rn ≠ 15#4) →
      (rm = 15#4 → exec i s = .refused .offsetR15) ∧
      (rm ≠ 15#4 → ix.isPre = false → rm = rn → exec i s = .refused .postIndexByBase))

/-- The same for block transfers and coprocessor 15 (rules R349 to R353, R398, R402, R403, R406, R411, R177). -/
def Obligations.BlockAndCp15RestrictionsRefused : Prop :=
  ∀ (i : Instr) (s : State) (md : Mode) (c : Cond), s.Executes md c →
    (∀ pre up w rn list,
      viewOf i = .ldm c pre up w rn list ∨ viewOf i = .ldmRestore c pre up w rn list ∨
        viewOf i = .ldmUser c pre up w rn list ∨ viewOf i = .stm c pre up w rn list ∨
        viewOf i = .stmUser c pre up w rn list →
      (rn = 15#4 → exec i s = .refused .blockBaseR15) ∧
      (rn ≠ 15#4 → list = 0#16 → exec i s = .refused .emptyRegisterList)) ∧
    (∀ pre up w rn list,
      viewOf i = .ldmRestore c pre up w rn list ∨ viewOf i = .ldmUser c pre up w rn list ∨
        viewOf i = .stmUser c pre up w rn list →
      rn ≠ 15#4 → list ≠ 0#16 → md = .usr → exec i s = .refused .blockSBitInUserMode) ∧
    (∀ pre up w rn list, viewOf i = .ldmUser c pre up w rn list ∨ viewOf i = .stmUser c pre up w rn list →
      rn ≠ 15#4 → list ≠ 0#16 → md ≠ .usr → w = true → exec i s = .refused .userBankWriteBack) ∧
    (∀ rd src, viewOf i = .cp15Read c false rd src → md ≠ .usr → exec i s = .refused .cp15ReservedFields) ∧
    (∀ rd tgt, viewOf i = .cp15Write c false rd tgt → md ≠ .usr → exec i s = .refused .cp15ReservedFields) ∧
    (∀ rd tgt, viewOf i = .cp15Write c true rd tgt → md ≠ .usr →
      (tgt = .control ∧ (s.read md rd 12#32).extractLsb' 11 21 ≠ 0#21 ∨
        tgt = .ttb ∧ (s.read md rd 12#32).extractLsb' 0 14 ≠ 0#14 ∨
        tgt = .purgeTlb ∧ (s.read md rd 12#32).extractLsb' 0 12 ≠ 0#12) →
      exec i s = .refused .cp15ReservedData) ∧
    (∀ rd, viewOf i = .cp15Write c true rd .control → md ≠ .usr → (s.read md rd 12#32).extractLsb' 11 21 = 0#21 →
      ((s.read md rd 12#32).getLsbD 2 || (s.read md rd 12#32).getLsbD 3) = true →
      (s.read md rd 12#32).getLsbD 0 = false → exec i s = .refused .enableWithoutMmu)

/-! ## Memory -/

/-- Section, large page and small page translation (rules R103 to R111, R124): with no TLB entry for `va` and plain tables in
memory, the physical address is made of the descriptor's base and the low bits of `va`, with its C and B bits, here for a
manager domain, where no permission is checked (rule R113); the two invalid descriptor types fault.  That a walk reads memory
after the buffered writes is decision D11 of the spec (log entry 26). -/
def Obligations.TableTranslation : Prop :=
  ∀ (cp : Cp15) (va : Word) (write priv : Bool) (m : MemSys) (l1 l2 : Word), cp.mmuOn = true → m.tlbMatches va = [] →
    m.asserts .level1 (cp.ttb.extractLsb' 14 18 ++ va.extractLsb' 20 12 ++ 0#2 : BitVec 32) = false →
    m.isVolatile (cp.ttb.extractLsb' 14 18 ++ va.extractLsb' 20 12 ++ 0#2 : BitVec 32) = false →
    l1 = m.physWord (cp.ttb.extractLsb' 14 18 ++ va.extractLsb' 20 12 : BitVec 30).toNat →
    (l1.extractLsb' 0 2 = 2#2 → cp.domainAccess (l1.extractLsb' 5 4) = 3#2 →
      ∃ t m', translate cp va write priv m = .ok t m' ∧
        t.pa = (l1.extractLsb' 20 12 ++ va.extractLsb' 0 20 : BitVec 32) ∧ t.cacheable = l1.getLsbD 3 ∧
        t.bufferable = l1.getLsbD 2) ∧
    (l1.extractLsb' 0 2 = 0#2 ∨ l1.extractLsb' 0 2 = 3#2 →
      ∃ m', translate cp va write priv m = .abort { status := .translationSection, domain := none, va := va } m') ∧
    (l1.extractLsb' 0 2 = 1#2 →
      m.asserts .level2 (l1.extractLsb' 10 22 ++ va.extractLsb' 12 8 ++ 0#2 : BitVec 32) = false →
      m.isVolatile (l1.extractLsb' 10 22 ++ va.extractLsb' 12 8 ++ 0#2 : BitVec 32) = false →
      l2 = m.physWord (l1.extractLsb' 10 22 ++ va.extractLsb' 12 8 : BitVec 30).toNat →
      (l2.extractLsb' 0 2 = 1#2 → cp.domainAccess (l1.extractLsb' 5 4) = 3#2 →
        ∃ t m', translate cp va write priv m = .ok t m' ∧
          t.pa = (l2.extractLsb' 16 16 ++ va.extractLsb' 0 16 : BitVec 32) ∧ t.cacheable = l2.getLsbD 3 ∧
          t.bufferable = l2.getLsbD 2) ∧
      (l2.extractLsb' 0 2 = 2#2 → cp.domainAccess (l1.extractLsb' 5 4) = 3#2 →
        ∃ t m', translate cp va write priv m = .ok t m' ∧
          t.pa = (l2.extractLsb' 12 20 ++ va.extractLsb' 0 12 : BitVec 32) ∧ t.cacheable = l2.getLsbD 3 ∧
          t.bufferable = l2.getLsbD 2) ∧
      (l2.extractLsb' 0 2 = 0#2 ∨ l2.extractLsb' 0 2 = 3#2 →
        ∃ m', translate cp va write priv m =
          .abort { status := .translationPage, domain := some (l1.extractLsb' 5 4), va := va } m'))

/-- The domain and permission checks on a mapped address (rules R112, R113, R114): domains 00 and 10 fault, 11 never does,
and a client access is allowed exactly as Table 9-2 says, by the AP bits of the section or the sub-page.  Which AP bits those are
(rules R106, R110, R111, R112): a section has one field, bits [11:10] of its descriptor; of the four of a large page `va[15:14]`
selects, of those of a small page `va[11:10]`, `ap_s` being bits [5+2s:4+2s] of the level two descriptor.  That S = R = 1 has no
meaning for any AP is read from the function of R114 (log entry 35). -/
def Obligations.AccessChecks : Prop :=
  ∀ (cp : Cp15) (e : TlbEntry) (va : Word) (write priv : Bool),
    let dom : BitVec 2 := cp.dac.extractLsb' (2 * e.domain.toNat) 2
    let ap : BitVec 2 := e.map.permission va
    (match e.map with
      | .sectionMap _ _ field => ap = field
      | .large _ _ fields => ap.toNat = fields.toNat / 4 ^ (va.toNat / 2 ^ 14 % 4) % 4
      | .small _ _ fields => ap.toNat = fields.toNat / 4 ^ (va.toNat / 2 ^ 10 % 4) % 4) ∧
    (∀ l1 l2 : Word, (sectionEntry l1 va).map.permission va = l1.extractLsb' 10 2 ∧
      (largeEntry l1 l2 va).map.permission va = l2.extractLsb' (4 + 2 * (va.extractLsb' 14 2).toNat) 2 ∧
      (smallEntry l1 l2 va).map.permission va = l2.extractLsb' (4 + 2 * (va.extractLsb' 10 2).toNat) 2) ∧
    (dom = 0#2 ∨ dom = 2#2 →
      checkAccess cp e va write priv = .fault (if e.map.isSection then .domainSection else .domainPage)) ∧
    (dom = 3#2 → checkAccess cp e va write priv = .permitted) ∧
    (dom = 1#2 → cp.control.getLsbD 8 = true → cp.control.getLsbD 9 = true →
      checkAccess cp e va write priv = .reserved) ∧
    (dom = 1#2 → ¬ (cp.control.getLsbD 8 = true ∧ cp.control.getLsbD 9 = true) →
      checkAccess cp e va write priv =
        if ap = 3#2 ∨ (ap = 2#2 ∧ (priv = true ∨ write = false)) ∨ (ap = 1#2 ∧ priv = true) ∨
            (ap = 0#2 ∧ cp.control.getLsbD 8 = true ∧ priv = true ∧ write = false) ∨
            (ap = 0#2 ∧ cp.control.getLsbD 9 = true ∧ write = false) then
          .permitted
        else .fault (if e.map.isSection then .permissionSection else .permissionPage))

/-- Every access of a mapped address has passed the checks, whether or not the cache holds it (rules R95, R96, R102, R124; that
the check is made on a cache hit is decision D10 of the spec, log entry 25): if with the MMU on an instruction fetch, a load, a
transfer of LDM, the locked read of a swap, or a write (of a store, a transfer of STM or a swap) is made, the entry that the TLB
or the table walk gives for its address permits it. -/
def Obligations.AccessIsPermitted : Prop :=
  ∀ (cp : Cp15) (sz : Size) (va v : Word) (priv : Bool) (style : WriteStyle) (m m' : MemSys), cp.mmuOn = true →
    ((∃ w pa, fetchWord cp va priv m = (.word w pa, m')) ∨ (∃ r, memRead cp sz va priv m = .ok r m') ∨
        (∃ r, readData cp sz va priv m = .ok r m') ∨ (∃ r, lockedRead cp sz va priv m = .ok r m') →
      ∃ e m1, lookupEntry cp va m = .ok e m1 ∧ checkAccess cp e va false priv = .permitted) ∧
    (memWrite cp style sz va priv v m = .ok () m' →
      ∃ e m1, lookupEntry cp va m = .ok e m1 ∧ checkAccess cp e va true priv = .permitted)

/-- A load sees the last store to its address (rules R162, R168, R171), with the MMU on or off, buffered or not: after a store
that went well, a load of the same address that translates to the same physical address gets what was stored, from the cache if
the line is present, from memory behind the write buffer or by a linefetch if it is not; the word comes back whole, the byte
zero-extended.  The location is plain memory and asserts no ABORT for the accesses made.  That a read behind the write buffer
follows the buffered writes is decision D11 of the spec (log entry 26). -/
def Obligations.LoadSeesStore : Prop :=
  ∀ (cp : Cp15) (sz : Size) (va v : Word) (p p' : Bool) (style : WriteStyle) (m m0 m1 m2 : MemSys) (t t' : Translation),
    (sz = .word → va.toNat % 4 = 0) → translate cp va true p m = .ok t m0 →
    memWrite cp style sz va p v m = .ok () m1 → translate cp va false p' m1 = .ok t' m2 → t'.pa = t.pa →
    m.asserts .write t.pa = false → m.asserts .read t.pa = false → m.asserts .linefetch (alignWord t.pa) = false →
    m.isVolatile t.pa = false →
    ∃ m3, memRead cp sz va p' m1 = .ok (match sz with | .word => v | .byte => (v.extractLsb' 0 8).setWidth 32) m3

/-- The write buffer is not seen by the processor (rules R167, R171; that a read follows the buffered writes is decision D11 of
the spec, log entry 26): however far it has drained, every byte the processor has stored and every word an external read of
plain memory brings are the same, and after such a read it is empty. -/
def Obligations.WriteBufferUnseen : Prop :=
  ∀ (m : MemSys) (n : Nat) (k : BusKind) (pa : Word), m.isVolatile pa = false →
    (∀ a, (m.drainOldest n).physByte a = m.physByte a) ∧
      ((m.drainOldest n).externalRead k pa).1 = (m.externalRead k pa).1 ∧
      (m.externalRead k pa).2.wbuf = []

/-- Byte order is the choice of a lane (rules R82, R87, R90, R91): a byte load of address `a` takes field `8k+7..8k` of the bus
word, `k = a[1:0]`, little-endian, and field `31-8k..24-8k` big-endian; a word load rotates right by `8k` in both. -/
def Obligations.ByteLanes : Prop :=
  ∀ (a w : Word),
    (Size.byte.loaded false a w).toNat = w.toNat / 2 ^ (8 * (a.toNat % 4)) % 256 ∧
      (Size.byte.loaded true a w).toNat = w.toNat / 2 ^ (24 - 8 * (a.toNat % 4)) % 256 ∧
      (∀ b, (Size.word.loaded b a w).toNat =
        w.toNat / 2 ^ (8 * (a.toNat % 4)) + w.toNat % 2 ^ (8 * (a.toNat % 4)) * 2 ^ (32 - 8 * (a.toNat % 4)))
end

