-- ==== Sys2Proof/Laws/Memory.lean ====
section
/-! SUPPORT. The laws of physical memory: read after write, and the canonical form kept by every operation. -/

namespace Sys2Proof.Machine

theorem Memory.readByte_erase (mem : List Host.Cell) (a a' : Nat) :
    Memory.readByte (Memory.erase mem a) a' = if a' = a then Memory.unlisted else Memory.readByte mem a' := by
  induction mem with
  | nil => simp [Memory.erase, Memory.readByte]
  | cons c cs ih =>
    unfold Memory.erase at ih ⊢
    by_cases h : c.1 = a
    · rw [List.filter_cons_of_neg (by simp [h]), ih, Memory.readByte]
      split
      · rfl
      · rw [if_neg (by omega)]
    · rw [List.filter_cons_of_pos (by simp [h]), Memory.readByte, Memory.readByte, ih]
      split
      · rw [if_neg (by omega)]
      · rfl

theorem Memory.readByte_insert (mem : List Host.Cell) (a : Nat) (b : Byte) (a' : Nat)
    (h' : ∀ c ∈ mem, c.1 ≠ a) :
    Memory.readByte (Memory.insert a b mem) a' = if a' = a then b else Memory.readByte mem a' := by
  induction mem with
  | nil => simp only [Memory.insert, Memory.readByte, eq_comm]
  | cons c cs ih =>
    have hc := h' c (by simp)
    have ih := ih fun d hd => h' d (by simp [hd])
    unfold Memory.insert
    split
    · rw [Memory.readByte, Memory.readByte, ih]
      split
      · rw [if_neg (by omega)]
      · rfl
    · rw [Memory.readByte]
      by_cases e : a' = a
      · simp [e]
      · rw [if_neg (by omega), if_neg e]

/-- Read after write: the byte written there, every other byte as before. -/
theorem Memory.readByte_writeByte (mem : List Host.Cell) (a : Nat) (b : Byte) (a' : Nat) :
    Memory.readByte (Memory.writeByte mem a b) a' = if a' = a then b else Memory.readByte mem a' := by
  have hne : ∀ c ∈ Memory.erase mem a, c.1 ≠ a := by simp [Memory.erase]
  unfold Memory.writeByte
  split
  · rename_i h; rw [Memory.readByte_erase, h]
  · rw [Memory.readByte_insert _ _ _ _ hne, Memory.readByte_erase]
    split <;> rfl

theorem Memory.wfFrom_mono {lo lo' : Nat} (h : lo ≤ lo') {mem : List Host.Cell}
    (hw : Memory.wfFrom lo' mem = true) : Memory.wfFrom lo mem = true := by
  cases mem with
  | nil => rfl
  | cons c cs =>
    simp only [Memory.wfFrom, Bool.and_eq_true, decide_eq_true_eq] at hw ⊢
    exact ⟨⟨⟨by omega, hw.1.1.2⟩, hw.1.2⟩, hw.2⟩

theorem Memory.wfFrom_erase {lo : Nat} {mem : List Host.Cell} (a : Nat) (hw : Memory.wfFrom lo mem = true) :
    Memory.wfFrom lo (Memory.erase mem a) = true := by
  induction mem generalizing lo with
  | nil => rfl
  | cons c cs ih =>
    simp only [Memory.wfFrom, Bool.and_eq_true, decide_eq_true_eq] at hw
    have ih := ih hw.2
    unfold Memory.erase at ih ⊢
    by_cases h : c.1 = a
    · rw [List.filter_cons_of_neg (by simp [h])]
      exact Memory.wfFrom_mono (by omega) ih
    · rw [List.filter_cons_of_pos (by simp [h])]
      simp only [Memory.wfFrom, Bool.and_eq_true, decide_eq_true_eq]
      exact ⟨hw.1, ih⟩

theorem Memory.wfFrom_insert {lo a : Nat} {b : Byte} {mem : List Host.Cell} (hw : Memory.wfFrom lo mem = true)
    (hlo : lo ≤ a) (ha : a < Memory.size) (hb : b ≠ Memory.unlisted) (hne : ∀ c ∈ mem, c.1 ≠ a) :
    Memory.wfFrom lo (Memory.insert a b mem) = true := by
  induction mem generalizing lo with
  | nil => simp [Memory.insert, Memory.wfFrom, hlo, ha, hb]
  | cons c cs ih =>
    have hc := hne c (by simp)
    simp only [Memory.wfFrom, Bool.and_eq_true, decide_eq_true_eq] at hw
    unfold Memory.insert
    split
    · simp only [Memory.wfFrom, Bool.and_eq_true, decide_eq_true_eq]
      exact ⟨hw.1, ih hw.2 (by omega) fun d hd => hne d (by simp [hd])⟩
    · simp only [Memory.wfFrom, Bool.and_eq_true, decide_eq_true_eq]
      exact ⟨⟨⟨hlo, ha⟩, hb⟩, ⟨⟨by omega, hw.1.1.2⟩, hw.1.2⟩, hw.2⟩

/-- A write keeps the canonical form. -/
theorem Memory.wf_writeByte {mem : List Host.Cell} {a : Nat} (b : Byte) (hw : Memory.wf mem = true)
    (ha : a < Memory.size) : Memory.wf (Memory.writeByte mem a b) = true := by
  unfold Memory.writeByte
  split
  · exact Memory.wfFrom_erase a hw
  · exact Memory.wfFrom_insert (Memory.wfFrom_erase a hw) (Nat.zero_le _) ha ‹_› (by simp [Memory.erase])

theorem wordIndex_lt (pa : Word) : wordIndex pa < 1073741824 := by
  have := pa.isLt
  unfold wordIndex
  omega

theorem Memory.readByte_writeLane (mem : List Host.Cell) (wa : Nat) (on : Bool) (lane : Nat) (w : Word) (a : Nat) :
    Memory.readByte (Memory.writeLane mem wa on lane w) a =
      if on = true ∧ a = 4 * wa + lane then laneByte w lane else Memory.readByte mem a := by
  unfold Memory.writeLane
  cases on
  · simp
  · simp [Memory.readByte_writeByte]

theorem Memory.wf_writeLane {mem : List Host.Cell} {wa lane : Nat} (on : Bool) (w : Word)
    (hw : Memory.wf mem = true) (ha : 4 * wa + lane < Memory.size) :
    Memory.wf (Memory.writeLane mem wa on lane w) = true := by
  unfold Memory.writeLane
  split
  · exact Memory.wf_writeByte _ hw ha
  · exact hw

/-- The lanes stored: what each byte of memory is after a store. -/
theorem Memory.readByte_writeLanes (mem : List Host.Cell) (wa : Nat) (lanes : BitVec 4) (w : Word) (a : Nat) :
    Memory.readByte (Memory.writeLanes mem wa lanes w) a =
      if a / 4 = wa ∧ lanes.getLsbD (a % 4) = true then laneByte w (a % 4) else Memory.readByte mem a := by
  unfold Memory.writeLanes
  simp only [Memory.readByte_writeLane]
  by_cases h : a / 4 = wa
  · have hl : a % 4 < 4 := Nat.mod_lt _ (by omega)
    have h0 : a = 4 * wa + a % 4 := by omega
    generalize hk : a % 4 = k at h0 hl
    subst h0
    interval_cases k <;> simp [h]
  · rw [if_neg (by omega), if_neg (by omega), if_neg (by omega), if_neg (by omega), if_neg (by tauto)]

theorem Memory.wf_writeLanes {mem : List Host.Cell} {wa : Nat} (lanes : BitVec 4) (w : Word)
    (hw : Memory.wf mem = true) (ha : wa < 1073741824) : Memory.wf (Memory.writeLanes mem wa lanes w) = true := by
  unfold Memory.writeLanes
  have hs : Memory.size = 4294967296 := rfl
  refine Memory.wf_writeLane _ _ (Memory.wf_writeLane _ _ (Memory.wf_writeLane _ _ (Memory.wf_writeLane _ _ hw ?_) ?_)
    ?_) ?_ <;> omega

theorem Memory.wf_perform {mem : List Host.Cell} (p : Pending) (hw : Memory.wf mem = true) :
    Memory.wf (p.perform mem) = true := Memory.wf_writeLanes _ _ hw (wordIndex_lt _)

theorem Memory.wf_afterWrites {mem : List Host.Cell} (ps : List Pending) (hw : Memory.wf mem = true) :
    Memory.wf (Memory.afterWrites mem ps) = true := by
  induction ps generalizing mem with
  | nil => exact hw
  | cons p ps ih => exact ih (Memory.wf_perform p hw)

theorem Memory.afterWrites_append (mem : List Host.Cell) (ps qs : List Pending) :
    Memory.afterWrites mem (ps ++ qs) = Memory.afterWrites (Memory.afterWrites mem ps) qs := by
  induction ps generalizing mem with
  | nil => rfl
  | cons p ps ih => exact ih _

end Sys2Proof.Machine
end

