-- ==== Sys2Proof/Laws/Bus.lean ====
section
/-! SUPPORT. What the operations of the bus and the write buffer leave: a read of any kind keeps every byte of memory and the
invariant (`MemSys.Reads`), a write changes the lanes it stores (`MemSys.Wrote`). -/

namespace Sys2Proof.Machine

/-- What a read may do to the memory system: no byte of memory and nothing of the platform changes, and the
invariant is kept. -/
structure MemSys.Reads (m m' : MemSys) : Prop where
  phys : ∀ a, m'.physByte a = m.physByte a
  aborts : m'.busAborts = m.busAborts
  volatile : m'.volatile = m.volatile
  inv : m.Inv → m'.Inv

theorem MemSys.Reads.refl (m : MemSys) : m.Reads m := ⟨fun _ => rfl, rfl, rfl, id⟩

theorem MemSys.Reads.trans {m m' m'' : MemSys} (h : m.Reads m') (k : m'.Reads m'') : m.Reads m'' :=
  ⟨fun a => (k.phys a).trans (h.phys a), k.aborts.trans h.aborts, k.volatile.trans h.volatile,
    fun i => k.inv (h.inv i)⟩

@[simp] theorem MemSys.draw_mem (m : MemSys) : m.draw.2.mem = m.mem := rfl
@[simp] theorem MemSys.draw_wbuf (m : MemSys) : m.draw.2.wbuf = m.wbuf := rfl
@[simp] theorem MemSys.draw_cache (m : MemSys) : m.draw.2.cache = m.cache := rfl
@[simp] theorem MemSys.draw_tlb (m : MemSys) : m.draw.2.tlb = m.tlb := rfl
@[simp] theorem MemSys.draw_tlbNext (m : MemSys) : m.draw.2.tlbNext = m.tlbNext := rfl
@[simp] theorem MemSys.draw_pipe (m : MemSys) : m.draw.2.pipe = m.pipe := rfl
@[simp] theorem MemSys.draw_busAborts (m : MemSys) : m.draw.2.busAborts = m.busAborts := rfl
@[simp] theorem MemSys.draw_volatile (m : MemSys) : m.draw.2.volatile = m.volatile := rfl
@[simp] theorem MemSys.draw_physByte (m : MemSys) (a : Nat) : m.draw.2.physByte a = m.physByte a := rfl

theorem MemSys.draw_reads (m : MemSys) : m.Reads m.draw.2 := ⟨fun _ => rfl, rfl, rfl, id⟩
theorem MemSys.drawBit_reads (m : MemSys) : m.Reads m.drawBit.2 := m.draw_reads

theorem MemSys.physByte_of_mem {m : MemSys} {mem : List Host.Cell} {q : List Pending}
    (h : Memory.afterWrites mem q = Memory.afterWrites m.mem m.wbuf) (a : Nat) :
    ({ m with mem := mem, wbuf := q } : MemSys).physByte a = m.physByte a := by
  unfold MemSys.physByte
  rw [h]

theorem addressSlots_drop (q : List Pending) (n : Nat) : addressSlots (q.drop n) ≤ addressSlots q := by
  induction n generalizing q with
  | zero => simp
  | succ n ih =>
    cases q with
    | nil => simp
    | cons p ps =>
      refine (ih ps).trans ?_
      cases ps with
      | nil => simp [addressSlots]
      | cons p' ps => simp only [addressSlots, List.filter_cons]; split <;> simp

theorem bufferHolds_drop {q : List Pending} (h : bufferHolds q = true) (n : Nat) : bufferHolds (q.drop n) = true := by
  simp only [bufferHolds, Bool.and_eq_true, decide_eq_true_eq, List.length_drop] at h ⊢
  exact ⟨by omega, (addressSlots_drop q n).trans h.2⟩

/-- Draining changes no byte of memory as the processor has written it. -/
theorem MemSys.drainOldest_reads (m : MemSys) (n : Nat) : m.Reads (m.drainOldest n) :=
  ⟨MemSys.physByte_of_mem (by rw [← Memory.afterWrites_append, List.take_append_drop]), rfl, rfl,
    fun i => ⟨Memory.wf_afterWrites _ i.1, bufferHolds_drop i.2.1 n, i.2.2⟩⟩

theorem MemSys.drainAll_reads (m : MemSys) : m.Reads m.drainAll :=
  ⟨MemSys.physByte_of_mem rfl, rfl, rfl, fun i => ⟨Memory.wf_afterWrites _ i.1, rfl, i.2.2⟩⟩

theorem MemSys.drainSome_reads (m : MemSys) : m.Reads m.drainSome := by
  unfold MemSys.drainSome
  split
  · exact .refl m
  · exact m.draw_reads.trans (MemSys.drainOldest_reads _ _)

theorem MemSys.busWord_reads (m : MemSys) (pa : Word) : m.Reads (m.busWord pa).2 := by
  unfold MemSys.busWord
  split
  · exact m.draw_reads
  · exact .refl m

theorem MemSys.externalRead_reads (m : MemSys) (k : BusKind) (pa : Word) : m.Reads (m.externalRead k pa).2 := by
  unfold MemSys.externalRead
  split
  · exact m.drainAll_reads
  · exact m.drainAll_reads.trans (MemSys.busWord_reads _ _)

/-- An external read of a location that is plain memory brings the word there, with all that was stored (rule R96). -/
theorem MemSys.externalRead_word {m : MemSys} {k : BusKind} {pa : Word} (ha : m.asserts k pa = false)
    (hv : m.isVolatile pa = false) : m.externalRead k pa = (some (m.physWord (wordIndex pa)), m.drainAll) := by
  have : m.drainAll.isVolatile pa = false := hv
  simp only [MemSys.externalRead, ha, MemSys.busWord, this]
  rfl

theorem MemSys.physWord_eq (m : MemSys) (wa : Nat) :
    m.physWord wa =
      ofLanes (m.physByte (4 * wa)) (m.physByte (4 * wa + 1)) (m.physByte (4 * wa + 2)) (m.physByte (4 * wa + 3)) := rfl

/-- What a write of the lanes `lanes` of `w` at `pa` does to memory and to the rest of the memory system. -/
structure MemSys.Wrote (m m' : MemSys) (pa : Word) (lanes : BitVec 4) (w : Word) : Prop where
  phys : ∀ a, m'.physByte a =
    if a / 4 = wordIndex pa ∧ lanes.getLsbD (a % 4) = true then laneByte w (a % 4) else m.physByte a
  aborts : m'.busAborts = m.busAborts
  volatile : m'.volatile = m.volatile
  inv : m.Inv → m'.Inv

theorem MemSys.Reads.wrote {m m' m'' : MemSys} {pa w : Word} {lanes : BitVec 4} (h : m.Reads m')
    (k : m'.Wrote m'' pa lanes w) : m.Wrote m'' pa lanes w :=
  ⟨fun a => by rw [k.phys, h.phys], k.aborts.trans h.aborts, k.volatile.trans h.volatile,
    fun i => k.inv (h.inv i)⟩

theorem MemSys.Wrote.reads {m m' m'' : MemSys} {pa w : Word} {lanes : BitVec 4} (h : m.Wrote m' pa lanes w)
    (k : m'.Reads m'') : m.Wrote m'' pa lanes w :=
  ⟨fun a => by rw [k.phys, h.phys], k.aborts.trans h.aborts, k.volatile.trans h.volatile,
    fun i => k.inv (h.inv i)⟩

theorem makeRoom_spec (p : Pending) (mem : List Host.Cell) (q : List Pending) :
    Memory.afterWrites (makeRoom p mem q).1 (makeRoom p mem q).2 = Memory.afterWrites mem q ∧
      bufferHolds ((makeRoom p mem q).2 ++ [p]) = true ∧
      (Memory.wf mem = true → Memory.wf (makeRoom p mem q).1 = true) := by
  induction q generalizing mem with
  | nil => exact ⟨rfl, rfl, id⟩
  | cons x xs ih =>
    unfold makeRoom
    split
    · exact ⟨rfl, ‹_›, id⟩
    · exact ⟨(ih _).1, (ih _).2.1, fun h => (ih _).2.2 (Memory.wf_perform x h)⟩

theorem MemSys.enqueue_wrote (m : MemSys) (p : Pending) : m.Wrote (m.enqueue p) p.pa p.lanes p.data := by
  obtain ⟨h1, h2, h3⟩ := makeRoom_spec p m.mem m.wbuf
  refine ⟨fun a => ?_, rfl, rfl, fun i => ⟨h3 i.1, h2, i.2.2⟩⟩
  unfold MemSys.enqueue MemSys.physByte
  simp only [Memory.afterWrites_append, h1]
  exact Memory.readByte_writeLanes _ _ _ _ _

theorem MemSys.store_wrote {m : MemSys} (pa : Word) (lanes : BitVec 4) (w : Word) (h : m.wbuf = []) :
    m.Wrote (m.store pa lanes w) pa lanes w := by
  refine ⟨fun a => ?_, rfl, rfl, fun i => ⟨Memory.wf_writeLanes _ _ i.1 (wordIndex_lt _), i.2⟩⟩
  simp only [MemSys.physByte, MemSys.store, h, Memory.afterWrites]
  exact Memory.readByte_writeLanes _ _ _ _ _

/-- A write that the platform lost. -/
theorem MemSys.wrote_nothing {m m' : MemSys} {pa w : Word} (h : m.Wrote m' pa 0 w) : m.Reads m' :=
  ⟨fun a => by rw [h.phys]; simp, h.aborts, h.volatile, h.inv⟩

/-- A buffered write is made, or, where ABORT is asserted, made or lost (rules R152, R168). -/
theorem MemSys.bufferedWrite_wrote (m : MemSys) (seq : Bool) (pa : Word) (lanes : BitVec 4) (w : Word) :
    m.Wrote (m.bufferedWrite seq pa lanes w) pa lanes w ∨
      m.asserts .write pa = true ∧ m.Reads (m.bufferedWrite seq pa lanes w) := by
  unfold MemSys.bufferedWrite
  split
  · have h := m.drawBit_reads.wrote (m.drawBit.2.enqueue_wrote
      { pa := pa, lanes := if m.drawBit.1 then lanes else 0, data := w, seq := seq && m.continues pa })
    cases hb : m.drawBit.1
    · simp only [hb, Bool.false_eq_true, if_false] at h ⊢
      exact .inr ⟨‹_›, MemSys.wrote_nothing h⟩
    · simp only [hb, if_true] at h ⊢
      exact .inl h
  · exact .inl (m.enqueue_wrote _)

/-- An unbuffered write: made, or aborted and made or lost (rules R150, R170). -/
theorem MemSys.unbufferedWrite_cases (m : MemSys) (k : BusKind) (f : MemFault) (pa : Word) (lanes : BitVec 4) (w : Word) :
    (∃ m', m.unbufferedWrite k f pa lanes w = .ok () m' ∧ m.asserts k pa = false ∧ m.Wrote m' pa lanes w) ∨
      ∃ m', m.unbufferedWrite k f pa lanes w = .abort f m' ∧ m.asserts k pa = true ∧
        (m.Wrote m' pa lanes w ∨ m.Reads m') := by
  unfold MemSys.unbufferedWrite
  cases ha : m.asserts k pa
  · exact .inl ⟨_, by simp, rfl, m.drainAll_reads.wrote (MemSys.store_wrote _ _ _ rfl)⟩
  · refine .inr ⟨_, by simp; rfl, rfl, ?_⟩
    have h := m.drainAll_reads.trans m.drainAll.drawBit_reads
    split
    · exact .inl (h.wrote (MemSys.store_wrote _ _ _ rfl))
    · exact .inr h

end Sys2Proof.Machine
end

