-- ==== Sys2Proof/Laws/Mmu.lean ====
section
/-! SUPPORT. Translation reads: it changes no byte of memory and keeps the invariant, however it ends. -/

namespace Sys2Proof.Machine

/-- However the access ends, the memory system it leaves has the property. -/
def Access.Leaves {α : Type} (P : MemSys → Prop) (x : Access α) : Prop :=
  match x with
  | .ok _ m' => P m'
  | .abort _ m' => P m'
  | .refuse _ => True

theorem Access.Leaves.ok {α : Type} {P : MemSys → Prop} {m' : MemSys} {x : Access α} {a : α} (h : x.Leaves P)
    (e : x = .ok a m') : P m' := by subst e; exact h

theorem Access.Leaves.abort {α : Type} {P : MemSys → Prop} {m' : MemSys} {x : Access α} {f : MemFault}
    (h : x.Leaves P) (e : x = .abort f m') : P m' := by subst e; exact h

/-- The access, however it ends, has only read. -/
def Access.OnlyReads {α : Type} (m : MemSys) (x : Access α) : Prop := x.Leaves m.Reads

theorem Access.OnlyReads.after {α : Type} {m m' : MemSys} {x : Access α} (h : m.Reads m') (k : x.OnlyReads m') :
    x.OnlyReads m := by
  cases x with
  | ok a m'' => exact h.trans k
  | abort f m'' => exact h.trans k
  | refuse r => trivial

theorem Access.OnlyReads.andThen {α β : Type} {m : MemSys} {x : Access α} {f : α → MemSys → Access β}
    (h : x.OnlyReads m) (k : ∀ a m', x = .ok a m' → (f a m').OnlyReads m') : (x.andThen f).OnlyReads m := by
  cases x with
  | abort e m' => exact h
  | refuse r => trivial
  | ok a m' => exact .after h (k a m' rfl)

/-- Sequencing answers with a value exactly when both parts do. -/
theorem Access.andThen_ok {α β : Type} {x : Access α} {f : α → MemSys → Access β} {b : β} {m' : MemSys} :
    x.andThen f = .ok b m' ↔ ∃ a m1, x = .ok a m1 ∧ f a m1 = .ok b m' := by
  cases x <;> simp [Access.andThen]

theorem MemSys.tlbInsert_reads (m : MemSys) (e : TlbEntry) : m.Reads (m.tlbInsert e) :=
  ⟨fun _ => rfl, rfl, rfl, id⟩
theorem MemSys.tlbFlush_reads (m : MemSys) : m.Reads m.tlbFlush := ⟨fun _ => rfl, rfl, rfl, id⟩
theorem MemSys.tlbPurge_reads (m : MemSys) (a : Word) : m.Reads (m.tlbPurge a) := ⟨fun _ => rfl, rfl, rfl, id⟩

theorem levelTwo_onlyReads (l1 va l2 : Word) (m : MemSys) : (levelTwo l1 va l2 m).OnlyReads m := by
  unfold levelTwo
  split
  · exact m.tlbInsert_reads _
  · split
    · exact m.tlbInsert_reads _
    · exact .refl m

theorem levelOne_onlyReads (va l1 : Word) (m : MemSys) : (levelOne va l1 m).OnlyReads m := by
  unfold levelOne
  split
  · exact m.tlbInsert_reads _
  · split
    · have h := m.externalRead_reads .level2 (level2Address l1 va)
      split
      · rename_i e; rw [e] at h; exact h
      · rename_i e; rw [e] at h; exact .after h (levelTwo_onlyReads _ _ _ _)
    · exact .refl m

theorem tableWalk_onlyReads (cp : Cp15) (va : Word) (m : MemSys) : (tableWalk cp va m).OnlyReads m := by
  unfold tableWalk
  have h := m.externalRead_reads .level1 (level1Address cp.ttb va)
  split
  · rename_i e; rw [e] at h; exact h
  · rename_i e; rw [e] at h; exact .after h (levelOne_onlyReads _ _ _)

theorem lookupEntry_onlyReads (cp : Cp15) (va : Word) (m : MemSys) : (lookupEntry cp va m).OnlyReads m := by
  unfold lookupEntry
  split
  · exact tableWalk_onlyReads cp va m
  · exact .refl m
  · exact m.draw_reads

theorem finishTranslation_onlyReads (cp : Cp15) (va : Word) (write priv : Bool) (e : TlbEntry) (m : MemSys) :
    (finishTranslation cp va write priv e m).OnlyReads m := by
  unfold finishTranslation
  split
  · exact .refl m
  · exact .refl m
  · trivial

/-- A translation only reads (rules R123, R124). -/
theorem translate_onlyReads (cp : Cp15) (va : Word) (write priv : Bool) (m : MemSys) :
    (translate cp va write priv m).OnlyReads m := by
  unfold translate
  split
  · exact (lookupEntry_onlyReads cp va m).andThen fun e m' _ => finishTranslation_onlyReads cp va write priv e m'
  · exact .refl m

/-- With the MMU off the physical address is the virtual one (rule R101). -/
theorem translate_off {cp : Cp15} (h : cp.mmuOn = false) (va : Word) (write priv : Bool) (m : MemSys) :
    translate cp va write priv m = .ok { pa := va, cacheable := false, bufferable := false, mapped := none } m := by
  simp [translate, h]

end Sys2Proof.Machine
end

