-- ==== Sys2Proof/Laws/Cache.lean ====
section
/-! SUPPORT. The cache: a linefetch only reads, an update keeps tags and places. -/

namespace Sys2Proof.Machine

theorem MemSys.lineWords_reads (m : MemSys) (pa : Word) : m.Reads (m.lineWords pa).2 :=
  (((m.busWord_reads _).trans (MemSys.busWord_reads _ _)).trans (MemSys.busWord_reads _ _)).trans
    (MemSys.busWord_reads _ _)

theorem CacheLine.update_tag (l : CacheLine) (va : Word) (lanes : BitVec 4) (w : Word) :
    (l.update va lanes w).tag = l.tag := rfl
theorem CacheLine.update_bank (l : CacheLine) (va : Word) (lanes : BitVec 4) (w : Word) :
    (l.update va lanes w).bank = l.bank := rfl

theorem MemSys.installLine_reads (m : MemSys) (va : Word) (words : Vector Word 4) : m.Reads (m.installLine va words) := by
  refine ⟨fun _ => rfl, rfl, rfl, fun i => ⟨i.1, i.2.1, ?_⟩⟩
  refine List.Pairwise.cons (fun l hl => ?_) (i.2.2.filter _)
  simp only [List.mem_filter, Bool.and_eq_true, Bool.not_eq_true', beq_eq_false_iff_ne, CacheLine.inPlace,
    Bool.and_eq_false_iff] at hl
  exact ⟨Ne.symm hl.2.1, hl.2.2.imp Ne.symm Ne.symm⟩

theorem MemSys.cacheUpdate_reads (m : MemSys) (va : Word) (lanes : BitVec 4) (w : Word) :
    m.Reads (m.cacheUpdate va lanes w) := by
  refine ⟨fun _ => rfl, rfl, rfl, fun i => ⟨i.1, i.2.1, ?_⟩⟩
  refine List.pairwise_map.mpr (i.2.2.imp fun {a b} h => ?_)
  have t : ∀ l : CacheLine, (if l.tag == lineNumber va then l.update va lanes w else l).tag = l.tag := fun l => by
    split <;> rfl
  have u : ∀ l : CacheLine, (if l.tag == lineNumber va then l.update va lanes w else l).bank = l.bank := fun l => by
    split <;> rfl
  unfold CacheLine.apart
  rw [t, t, u, u]
  exact h

theorem MemSys.cacheFlush_reads (m : MemSys) : m.Reads m.cacheFlush :=
  ⟨fun _ => rfl, rfl, rfl, fun i => ⟨i.1, i.2.1, .nil⟩⟩

theorem MemSys.linefetch_onlyReads (m : MemSys) (va : Word) (t : Translation) : (m.linefetch va t).OnlyReads m := by
  unfold MemSys.linefetch
  split
  · exact m.drainAll_reads
  · have h := m.drainAll_reads.trans (m.drainAll.lineWords_reads t.pa)
    simp only [Access.OnlyReads]
    split
    · exact h
    · exact h.trans (MemSys.installLine_reads _ _ _)

/-- An update changes no tag, so it hides no line. -/
theorem MemSys.cacheUpdate_none {m : MemSys} {va' : Word} (h : m.cachedWord va' = none) (va : Word) (lanes : BitVec 4)
    (w : Word) : (m.cacheUpdate va lanes w).cachedWord va' = none := by
  simp only [MemSys.cachedWord, MemSys.cacheUpdate, Option.map_eq_none_iff, List.find?_eq_none, List.mem_map] at h ⊢
  rintro x ⟨l, hl, rfl⟩
  have := h l hl
  split <;> exact this

end Sys2Proof.Machine
end

