-- ==== Sys2Proof/Laws/Access.lean ====
section
/-! SUPPORT. The named accesses: a load only reads, a store writes its lanes at the translated address and nothing else; and
what they come to with the MMU off. -/

namespace Sys2Proof.Machine

theorem uncachedRead_onlyReads (k : BusKind) (va : Word) (t : Translation) (m : MemSys) :
    (uncachedRead k va t m).OnlyReads m := by
  unfold uncachedRead
  have h := m.externalRead_reads k t.pa
  split <;> (rename_i e; rw [e] at h; exact h)

theorem readTranslated_onlyReads (cp : Cp15) (va : Word) (t : Translation) (m : MemSys) :
    (readTranslated cp va t m).OnlyReads m := by
  unfold readTranslated
  split
  · exact .refl m
  · split
    · exact m.linefetch_onlyReads va t
    · exact uncachedRead_onlyReads _ _ _ _

theorem readBusWord_onlyReads (cp : Cp15) (va : Word) (priv : Bool) (m : MemSys) :
    (readBusWord cp va priv m).OnlyReads m :=
  (translate_onlyReads cp va false priv m).andThen fun t m' _ => readTranslated_onlyReads cp va t m'

theorem readData_onlyReads (cp : Cp15) (sz : Size) (va : Word) (priv : Bool) (m : MemSys) :
    (readData cp sz va priv m).OnlyReads m := by
  unfold readData
  split
  · exact .refl m
  · exact (readBusWord_onlyReads cp va priv m).andThen fun _ m' _ => MemSys.Reads.refl m'

/-- A load only reads (rules R90, R91, R96). -/
theorem memRead_onlyReads (cp : Cp15) (sz : Size) (va : Word) (priv : Bool) (m : MemSys) :
    (memRead cp sz va priv m).OnlyReads m :=
  (readData_onlyReads cp sz va priv m).andThen fun _ m' _ => MemSys.Reads.refl m'

theorem lockedRead_onlyReads (cp : Cp15) (sz : Size) (va : Word) (priv : Bool) (m : MemSys) :
    (lockedRead cp sz va priv m).OnlyReads m := by
  unfold lockedRead
  split
  · exact .refl m
  · exact (translate_onlyReads cp va false priv m).andThen fun t m1 _ =>
      (uncachedRead_onlyReads .lockedRead va t m1).andThen fun _ m2 _ => MemSys.Reads.refl m2

theorem MemSys.refetch_reads (m : MemSys) (va pa : Word) : m.Reads (m.refetch va pa).2 := by
  unfold MemSys.refetch
  split
  · exact .refl m
  · split
    · exact m.draw_reads
    · exact .refl m

theorem refreshSlots_reads (va pa : Word) (xs : List Slot) (m : MemSys) : m.Reads (refreshSlots va pa xs m).2 := by
  induction xs generalizing m with
  | nil => exact .refl m
  | cons x xs ih =>
    unfold refreshSlots
    split
    · split
      · exact (m.drawBit_reads.trans (MemSys.refetch_reads _ _ _)).trans (ih _)
      · exact m.drawBit_reads.trans (ih _)
    · exact ih m

/-- A store leaves no prefetched word that is neither what was prefetched nor a whole word fetched anew (rule R175). -/
theorem refreshSlots_old_or_new (va pa : Word) (xs : List Slot) (m : MemSys) :
    ∀ y ∈ (refreshSlots va pa xs m).1, y ∈ xs ∨
      ∃ x ∈ xs, x.holdsWord va pa = true ∧ ∃ k : MemSys, m.Reads k ∧ k.mem = m.mem ∧ k.wbuf = m.wbuf ∧ k.cache = m.cache ∧
        y = { x with got := .word (k.refetch x.va pa).1 (alignWord pa) } := by
  induction xs generalizing m with
  | nil => exact fun _ h => nomatch h
  | cons x xs ih =>
    have lift : ∀ k : MemSys, m.Reads k → k.mem = m.mem → k.wbuf = m.wbuf → k.cache = m.cache →
        ∀ y ∈ (refreshSlots va pa xs k).1, y ∈ x :: xs ∨
          ∃ x' ∈ x :: xs, x'.holdsWord va pa = true ∧ ∃ k : MemSys, m.Reads k ∧ k.mem = m.mem ∧ k.wbuf = m.wbuf ∧
            k.cache = m.cache ∧ y = { x' with got := .word (k.refetch x'.va pa).1 (alignWord pa) } := by
      intro k hk h1 h2 h3 y hy
      rcases ih k y hy with h | ⟨x', hx, hh, k', hr, e1, e2, e3, e⟩
      · exact .inl (.tail _ h)
      · exact .inr ⟨x', .tail _ hx, hh, k', hk.trans hr, e1.trans h1, e2.trans h2, e3.trans h3, e⟩
    have hf : ∀ k : MemSys, (k.refetch x.va pa).2.mem = k.mem ∧ (k.refetch x.va pa).2.wbuf = k.wbuf ∧
        (k.refetch x.va pa).2.cache = k.cache := by
      intro k
      unfold MemSys.refetch
      split
      · exact ⟨rfl, rfl, rfl⟩
      · split <;> exact ⟨rfl, rfl, rfl⟩
    intro y hy
    unfold refreshSlots at hy
    split at hy
    · split at hy
      · rcases List.mem_cons.1 hy with rfl | hy
        · exact .inr ⟨x, .head _, ‹_›, m.drawBit.2, m.drawBit_reads, rfl, rfl, rfl, rfl⟩
        · exact lift _ (m.drawBit_reads.trans (MemSys.refetch_reads _ _ _)) (hf _).1 (hf _).2.1 (hf _).2.2 y hy
      · rcases List.mem_cons.1 hy with rfl | hy
        · exact .inl (.head _)
        · exact lift _ m.drawBit_reads rfl rfl rfl y hy
    · rcases List.mem_cons.1 hy with rfl | hy
      · exact .inl (.head _)
      · exact lift _ (.refl m) rfl rfl rfl y hy

theorem MemSys.withPipe_reads (m : MemSys) (p : List Slot) : m.Reads { m with pipe := p } :=
  ⟨fun _ => rfl, rfl, rfl, id⟩

theorem MemSys.refreshPipe_reads (m : MemSys) (va pa : Word) : m.Reads (m.refreshPipe va pa) :=
  (refreshSlots_reads va pa m.pipe m).trans (MemSys.withPipe_reads _ _)

/-- What `writeTranslated` may leave: the write made; or, where ABORT comes on it, the write made or lost. -/
theorem writeTranslated_cases (cp : Cp15) (style : WriteStyle) (va : Word) (lanes : BitVec 4) (w : Word)
    (t : Translation) (m : MemSys) :
    (∃ m', (writeTranslated cp style va lanes w t m = .ok () m' ∨
        ∃ f, writeTranslated cp style va lanes w t m = .abort f m') ∧ m.Wrote m' t.pa lanes w) ∨
      ∃ m', (writeTranslated cp style va lanes w t m = .ok () m' ∨
        ∃ f, writeTranslated cp style va lanes w t m = .abort f m') ∧ m.Reads m' := by
  unfold writeTranslated
  split
  · rcases m.bufferedWrite_wrote (style == .sequential) t.pa lanes w with h | ⟨_, h⟩
    · exact .inl ⟨_, .inl rfl, h⟩
    · exact .inr ⟨_, .inl rfl, h⟩
  · rcases m.unbufferedWrite_cases (if style == .locked then .lockedWrite else .write) (t.busFault va) t.pa lanes w with
      ⟨m', e, _, h⟩ | ⟨m', e, _, h | h⟩
    · exact .inl ⟨m', .inl e, h⟩
    · exact .inl ⟨m', .inr ⟨_, e⟩, h⟩
    · exact .inr ⟨m', .inr ⟨_, e⟩, h⟩

/-- An external write that ends well is made, unless it went into the write buffer at a location that asserts ABORT (rules
R152, R168, R170). -/
theorem writeTranslated_ok {cp : Cp15} {style : WriteStyle} {va w : Word} {lanes : BitVec 4} {t : Translation}
    {m m' : MemSys} (h : writeTranslated cp style va lanes w t m = .ok () m') :
    m.Wrote m' t.pa lanes w ∨ style ≠ .locked ∧ m.asserts .write t.pa = true ∧ m.Reads m' := by
  unfold writeTranslated at h
  split at h
  · rename_i hb
    cases h
    refine (m.bufferedWrite_wrote _ _ _ _).imp_right fun h => ⟨?_, h⟩
    rintro rfl
    simp at hb
  · rcases m.unbufferedWrite_cases (if style == .locked then .lockedWrite else .write) (t.busFault va) t.pa lanes w with
      ⟨m2, e, _, hw⟩ | ⟨m2, e, _, _⟩ <;> rw [e] at h <;> cases h
    exact .inl hw

/-- The end of a store: nothing written, or the lanes at the physical address of `va`. -/
def Stored (cp : Cp15) (sz : Size) (va : Word) (priv : Bool) (v : Word) (m m' : MemSys) : Prop :=
  m.Reads m' ∨
    ∃ t m1, translate cp va true priv m = .ok t m1 ∧ m.Wrote m' t.pa (sz.lanes cp.bigEndian va) (sz.busData v)

/-- A store writes its lanes at the translated address, or nothing (rules R92, R93, R150, R152). -/
theorem memWrite_stored (cp : Cp15) (style : WriteStyle) (sz : Size) (va : Word) (priv : Bool) (v : Word) (m : MemSys) :
    (memWrite cp style sz va priv v m).Leaves (Stored cp sz va priv v m) := by
  unfold memWrite
  split
  · exact .inl (.refl m)
  · have ht := translate_onlyReads cp va true priv m
    cases e : translate cp va true priv m with
    | abort f m1 => exact .inl (ht.abort e)
    | refuse r => trivial
    | ok t m1 =>
      have hr := (ht.ok e).trans (m1.cacheUpdate_reads va (sz.lanes cp.bigEndian va) (sz.busData v))
      rcases writeTranslated_cases cp style va (sz.lanes cp.bigEndian va) (sz.busData v) t
          (m1.cacheUpdate va (sz.lanes cp.bigEndian va) (sz.busData v)) with
        ⟨m', h | ⟨f, h⟩, hw⟩ | ⟨m', h | ⟨f, h⟩, hw⟩ <;>
        rw [Access.andThen, h]
      · exact .inr ⟨t, m1, e, (hr.wrote hw).reads (m'.refreshPipe_reads va t.pa)⟩
      · exact .inr ⟨t, m1, e, hr.wrote hw⟩
      · exact .inl ((hr.trans hw).trans (m'.refreshPipe_reads va t.pa))
      · exact .inl (hr.trans hw)

/-- A store that ends well has written its lanes at the translated address, unless the write went into the write buffer at a
location that asserts ABORT and was lost there (rules R92, R93, R152, R168). -/
theorem memWrite_ok {cp : Cp15} {style : WriteStyle} {sz : Size} {va v : Word} {priv : Bool} {m m' : MemSys}
    (h : memWrite cp style sz va priv v m = .ok () m') :
    misaligned cp sz va = false ∧ ∃ t m1, translate cp va true priv m = .ok t m1 ∧
      (m.Wrote m' t.pa (sz.lanes cp.bigEndian va) (sz.busData v) ∨
        style ≠ .locked ∧ m.asserts .write t.pa = true ∧ m.Reads m') := by
  unfold memWrite at h
  split at h
  · cases h
  · obtain ⟨t, m1, e, h⟩ := Access.andThen_ok.1 h
    obtain ⟨_, m2, e2, h⟩ := Access.andThen_ok.1 h
    cases h
    have hr := ((translate_onlyReads cp va true priv m).ok e).trans
      (m1.cacheUpdate_reads va (sz.lanes cp.bigEndian va) (sz.busData v))
    refine ⟨by simpa using ‹¬misaligned cp sz va = true›, t, m1, e, ?_⟩
    rcases writeTranslated_ok e2 with hw | ⟨hs, ha, hw⟩
    · exact .inl ((hr.wrote hw).reads (m2.refreshPipe_reads va t.pa))
    · refine .inr ⟨hs, ?_, (hr.trans hw).trans (m2.refreshPipe_reads va t.pa)⟩
      unfold MemSys.asserts at ha ⊢
      rw [← hr.aborts]
      exact ha

theorem Stored.aborts {cp : Cp15} {sz : Size} {va v : Word} {priv : Bool} {m m' : MemSys}
    (h : Stored cp sz va priv v m m') : m'.busAborts = m.busAborts := by
  rcases h with h | ⟨_, _, _, h⟩
  · exact h.aborts
  · exact h.aborts

theorem Stored.inv {cp : Cp15} {sz : Size} {va v : Word} {priv : Bool} {m m' : MemSys}
    (h : Stored cp sz va priv v m m') (i : m.Inv) : m'.Inv := by
  rcases h with h | ⟨_, _, _, h⟩
  · exact h.inv i
  · exact h.inv i

/-- With the MMU off, an uncached load of plain memory brings the stored word (rules R90, R91, R96, R101). -/
theorem readData_flat {cp : Cp15} {sz : Size} {va : Word} {priv : Bool} {m : MemSys} (hm : cp.mmuOn = false)
    (hc : m.cachedWord va = none) (ha : m.asserts .read va = false) (hv : m.isVolatile va = false)
    (hal : misaligned cp sz va = false) :
    readData cp sz va priv m = .ok (m.physWord (wordIndex va)) m.drainAll := by
  simp [readData, hal, readBusWord, translate_off hm, Access.andThen, readTranslated, hc, uncachedRead,
    MemSys.externalRead_word ha hv]

theorem memRead_flat {cp : Cp15} {sz : Size} {va : Word} {priv : Bool} {m : MemSys} (hm : cp.mmuOn = false)
    (hc : m.cachedWord va = none) (ha : m.asserts .read va = false) (hv : m.isVolatile va = false)
    (hal : misaligned cp sz va = false) :
    memRead cp sz va priv m = .ok (sz.loaded cp.bigEndian va (m.physWord (wordIndex va))) m.drainAll := by
  simp [memRead, readData_flat hm hc ha hv hal, Access.andThen]

theorem append_low {n : Nat} (b : BitVec (32 - n)) (va : Word) (h2 : 2 ≤ n) :
    (b ++ va.extractLsb' 0 n).toNat % 4 = va.toNat % 4 := by
  rw [BitVec.toNat_append, BitVec.extractLsb'_toNat, Nat.shiftRight_zero,
    ← Nat.shiftLeft_add_eq_or_of_lt (Nat.mod_lt _ (Nat.two_pow_pos n)), Nat.shiftLeft_eq]
  have h4 : 4 ∣ 2 ^ n := by rw [show 4 = 2 ^ 2 from rfl]; exact Nat.pow_dvd_pow 2 h2
  obtain ⟨k, hk⟩ := h4
  rw [hk, show b.toNat * (4 * k) + va.toNat % (4 * k) = va.toNat % (4 * k) + 4 * (b.toNat * k) by ring,
    Nat.add_mul_mod_self_left, Nat.mod_mul_right_mod]

/-- A translation keeps bits [1:0] of the address (rules R107, R110, R111). -/
theorem Mapping.physical_low (e : Mapping) (va : Word) : (e.physical va).toNat % 4 = va.toNat % 4 := by
  cases e with
  | sectionMap t b p => exact append_low (n := 20) b va (by decide)
  | large t b p => exact append_low (n := 16) b va (by decide)
  | small t b p => exact append_low (n := 12) b va (by decide)

theorem translate_low {cp : Cp15} {va : Word} {write priv : Bool} {m m' : MemSys} {t : Translation}
    (h : translate cp va write priv m = .ok t m') : t.pa.toNat % 4 = va.toNat % 4 := by
  unfold translate at h
  split at h
  · obtain ⟨e, m1, -, h2⟩ := Access.andThen_ok.1 h
    unfold finishTranslation at h2
    split at h2 <;> cases h2
    exact e.map.physical_low va
  · cases h; rfl

/-- A bit of the bus word made of four lanes. -/
theorem ofLanes_getLsbD (b0 b1 b2 b3 : Byte) (i : Nat) :
    (ofLanes b0 b1 b2 b3).getLsbD i =
      if i < 8 then b0.getLsbD i else if i - 8 < 8 then b1.getLsbD (i - 8)
      else if i - 8 - 8 < 8 then b2.getLsbD (i - 8 - 8) else b3.getLsbD (i - 8 - 8 - 8) := by
  change BitVec.getLsbD (w := 8 + 8 + 8 + 8) (b3 ++ b2 ++ b1 ++ b0) i = _
  simp only [BitVec.getLsbD_append]

theorem repeat_lane (b : Byte) (j : Nat) (h : j < 4) : laneByte (repeatByte b) j = b := by
  apply BitVec.eq_of_getLsbD_eq
  intro i hi
  rw [laneByte, BitVec.getLsbD_extractLsb', repeatByte, ofLanes_getLsbD]
  rw [decide_eq_true hi, Bool.true_and]
  interval_cases j
  · rw [if_pos (by omega), Nat.mul_zero, Nat.zero_add]
  · rw [if_neg (by omega), if_pos (by omega), show 8 * 1 + i - 8 = i by omega]
  · rw [if_neg (by omega), if_neg (by omega), if_pos (by omega), show 8 * 2 + i - 8 - 8 = i by omega]
  · rw [if_neg (by omega), if_neg (by omega), if_neg (by omega), show 8 * 3 + i - 8 - 8 - 8 = i by omega]

/-- The lanes of a store hold exactly the bytes of its width (rules R82, R92, R93). -/
theorem MemSys.Wrote.stored {m m' : MemSys} {sz : Size} {be : Bool} {pa va v : Word}
    (h : m.Wrote m' pa (sz.lanes be va) (sz.busData v)) (hl : pa.toNat % 4 = va.toNat % 4) (a : Nat) :
    m'.physByte a = (storedByte sz be pa v a).getD (m.physByte a) := by
  rw [h.phys]
  have h4 : a % 4 < 4 := Nat.mod_lt _ (by decide)
  cases sz with
  | word =>
    unfold storedByte
    split
    · rename_i x; simp [x.1, wordIndex, laneByte, Size.busData]
    · rename_i x
      rw [if_neg, Option.getD_none]
      intro e
      exact x ⟨e, by change (15#4).getLsbD _ = true; generalize a % 4 = k at h4; interval_cases k <;> rfl⟩
  | byte =>
    have hb : ∀ k < 4, ((1#4 <<< k).getLsbD (a % 4) = true ↔ a % 4 = k) := by
      intro k hk
      generalize a % 4 = j at h4
      interval_cases j <;> interval_cases k <;> decide
    have hk : (if be = true then 3 - pa.toNat % 4 else pa.toNat % 4) < 4 := by split <;> omega
    have hv : laneByte (Size.byte.busData v) (a % 4) = v.extractLsb' 0 8 := by
      generalize a % 4 = j at h4
      exact repeat_lane _ j h4
    simp only [Size.lanes, byteLane, ← hl, hb _ hk, hv, storedByte, wordIndex]
    generalize (if be = true then 3 - pa.toNat % 4 else pa.toNat % 4) = k at hk
    by_cases e : a = 4 * (pa.toNat / 4) + k
    · rw [if_pos e, if_pos (by omega), Option.getD_some]
    · rw [if_neg e, if_neg (by omega), Option.getD_none]

end Sys2Proof.Machine
end

