-- ==== Sys2Proof/Laws/State.lean ====
section
/-! SUPPORT. One lemma per field of State per update, so that no proof unfolds a record update. -/

namespace Sys2Proof.Machine

set_option Elab.async false

@[simp] theorem State.setPreg_regs (s : State) (p : PReg) (v : Word) : (s.setPreg p v).regs = s.regs.setIfInBounds p.idx v := rfl
@[simp] theorem State.setPreg_pc (s : State) (p : PReg) (v : Word) : (s.setPreg p v).pc = s.pc := rfl
@[simp] theorem State.setPreg_cpsr (s : State) (p : PReg) (v : Word) : (s.setPreg p v).cpsr = s.cpsr := rfl
@[simp] theorem State.setPreg_spsrFiq (s : State) (p : PReg) (v : Word) : (s.setPreg p v).spsrFiq = s.spsrFiq := rfl
@[simp] theorem State.setPreg_spsrIrq (s : State) (p : PReg) (v : Word) : (s.setPreg p v).spsrIrq = s.spsrIrq := rfl
@[simp] theorem State.setPreg_spsrSvc (s : State) (p : PReg) (v : Word) : (s.setPreg p v).spsrSvc = s.spsrSvc := rfl
@[simp] theorem State.setPreg_spsrAbt (s : State) (p : PReg) (v : Word) : (s.setPreg p v).spsrAbt = s.spsrAbt := rfl
@[simp] theorem State.setPreg_spsrUnd (s : State) (p : PReg) (v : Word) : (s.setPreg p v).spsrUnd = s.spsrUnd := rfl
@[simp] theorem State.setPreg_cp15 (s : State) (p : PReg) (v : Word) : (s.setPreg p v).cp15 = s.cp15 := rfl
@[simp] theorem State.setPreg_sys (s : State) (p : PReg) (v : Word) : (s.setPreg p v).sys = s.sys := rfl
@[simp] theorem State.setPreg_bankHazard (s : State) (p : PReg) (v : Word) : (s.setPreg p v).bankHazard = s.bankHazard := rfl
@[simp] theorem State.setPreg_inputs (s : State) (p : PReg) (v : Word) : (s.setPreg p v).inputs = s.inputs := rfl

@[simp] theorem State.write_pc (s : State) (md : Mode) (n : RegNo) (v : Word) : (s.write md n v).pc = s.pc := by
  unfold State.write; split <;> rfl
@[simp] theorem State.write_cpsr (s : State) (md : Mode) (n : RegNo) (v : Word) : (s.write md n v).cpsr = s.cpsr := by
  unfold State.write; split <;> rfl
@[simp] theorem State.write_spsrFiq (s : State) (md : Mode) (n : RegNo) (v : Word) : (s.write md n v).spsrFiq = s.spsrFiq := by
  unfold State.write; split <;> rfl
@[simp] theorem State.write_spsrIrq (s : State) (md : Mode) (n : RegNo) (v : Word) : (s.write md n v).spsrIrq = s.spsrIrq := by
  unfold State.write; split <;> rfl
@[simp] theorem State.write_spsrSvc (s : State) (md : Mode) (n : RegNo) (v : Word) : (s.write md n v).spsrSvc = s.spsrSvc := by
  unfold State.write; split <;> rfl
@[simp] theorem State.write_spsrAbt (s : State) (md : Mode) (n : RegNo) (v : Word) : (s.write md n v).spsrAbt = s.spsrAbt := by
  unfold State.write; split <;> rfl
@[simp] theorem State.write_spsrUnd (s : State) (md : Mode) (n : RegNo) (v : Word) : (s.write md n v).spsrUnd = s.spsrUnd := by
  unfold State.write; split <;> rfl
@[simp] theorem State.write_cp15 (s : State) (md : Mode) (n : RegNo) (v : Word) : (s.write md n v).cp15 = s.cp15 := by
  unfold State.write; split <;> rfl
@[simp] theorem State.write_sys (s : State) (md : Mode) (n : RegNo) (v : Word) : (s.write md n v).sys = s.sys := by
  unfold State.write; split <;> rfl
@[simp] theorem State.write_bankHazard (s : State) (md : Mode) (n : RegNo) (v : Word) : (s.write md n v).bankHazard = s.bankHazard := by
  unfold State.write; split <;> rfl
@[simp] theorem State.write_inputs (s : State) (md : Mode) (n : RegNo) (v : Word) : (s.write md n v).inputs = s.inputs := by
  unfold State.write; split <;> rfl

@[simp] theorem State.setCpsr_regs (s : State) (v : Word) : (s.setCpsr v).regs = s.regs := rfl
@[simp] theorem State.setCpsr_pc (s : State) (v : Word) : (s.setCpsr v).pc = s.pc := rfl
@[simp] theorem State.setCpsr_cpsr (s : State) (v : Word) : (s.setCpsr v).cpsr = v := rfl
@[simp] theorem State.setCpsr_spsrFiq (s : State) (v : Word) : (s.setCpsr v).spsrFiq = s.spsrFiq := rfl
@[simp] theorem State.setCpsr_spsrIrq (s : State) (v : Word) : (s.setCpsr v).spsrIrq = s.spsrIrq := rfl
@[simp] theorem State.setCpsr_spsrSvc (s : State) (v : Word) : (s.setCpsr v).spsrSvc = s.spsrSvc := rfl
@[simp] theorem State.setCpsr_spsrAbt (s : State) (v : Word) : (s.setCpsr v).spsrAbt = s.spsrAbt := rfl
@[simp] theorem State.setCpsr_spsrUnd (s : State) (v : Word) : (s.setCpsr v).spsrUnd = s.spsrUnd := rfl
@[simp] theorem State.setCpsr_cp15 (s : State) (v : Word) : (s.setCpsr v).cp15 = s.cp15 := rfl
@[simp] theorem State.setCpsr_sys (s : State) (v : Word) : (s.setCpsr v).sys = s.sys := rfl
@[simp] theorem State.setCpsr_bankHazard (s : State) (v : Word) : (s.setCpsr v).bankHazard = s.bankHazard := rfl
@[simp] theorem State.setCpsr_inputs (s : State) (v : Word) : (s.setCpsr v).inputs = s.inputs := rfl

@[simp] theorem State.setFlags_regs (s : State) (f : Flags) : (s.setFlags f).regs = s.regs := rfl
@[simp] theorem State.setFlags_pc (s : State) (f : Flags) : (s.setFlags f).pc = s.pc := rfl
@[simp] theorem State.setFlags_cpsr (s : State) (f : Flags) : (s.setFlags f).cpsr = withFlags s.cpsr f := rfl
@[simp] theorem State.setFlags_spsrFiq (s : State) (f : Flags) : (s.setFlags f).spsrFiq = s.spsrFiq := rfl
@[simp] theorem State.setFlags_spsrIrq (s : State) (f : Flags) : (s.setFlags f).spsrIrq = s.spsrIrq := rfl
@[simp] theorem State.setFlags_spsrSvc (s : State) (f : Flags) : (s.setFlags f).spsrSvc = s.spsrSvc := rfl
@[simp] theorem State.setFlags_spsrAbt (s : State) (f : Flags) : (s.setFlags f).spsrAbt = s.spsrAbt := rfl
@[simp] theorem State.setFlags_spsrUnd (s : State) (f : Flags) : (s.setFlags f).spsrUnd = s.spsrUnd := rfl
@[simp] theorem State.setFlags_cp15 (s : State) (f : Flags) : (s.setFlags f).cp15 = s.cp15 := rfl
@[simp] theorem State.setFlags_sys (s : State) (f : Flags) : (s.setFlags f).sys = s.sys := rfl
@[simp] theorem State.setFlags_bankHazard (s : State) (f : Flags) : (s.setFlags f).bankHazard = s.bankHazard := rfl
@[simp] theorem State.setFlags_inputs (s : State) (f : Flags) : (s.setFlags f).inputs = s.inputs := rfl

@[simp] theorem State.setFlagsIf_regs (s : State) (on : Bool) (f : Flags) : (s.setFlagsIf on f).regs = s.regs := by
  unfold State.setFlagsIf; cases on <;> rfl
@[simp] theorem State.setFlagsIf_pc (s : State) (on : Bool) (f : Flags) : (s.setFlagsIf on f).pc = s.pc := by
  unfold State.setFlagsIf; cases on <;> rfl
@[simp] theorem State.setFlagsIf_cpsr (s : State) (on : Bool) (f : Flags) : (s.setFlagsIf on f).cpsr = if on then withFlags s.cpsr f else s.cpsr := by
  unfold State.setFlagsIf; cases on <;> rfl
@[simp] theorem State.setFlagsIf_spsrFiq (s : State) (on : Bool) (f : Flags) : (s.setFlagsIf on f).spsrFiq = s.spsrFiq := by
  unfold State.setFlagsIf; cases on <;> rfl
@[simp] theorem State.setFlagsIf_spsrIrq (s : State) (on : Bool) (f : Flags) : (s.setFlagsIf on f).spsrIrq = s.spsrIrq := by
  unfold State.setFlagsIf; cases on <;> rfl
@[simp] theorem State.setFlagsIf_spsrSvc (s : State) (on : Bool) (f : Flags) : (s.setFlagsIf on f).spsrSvc = s.spsrSvc := by
  unfold State.setFlagsIf; cases on <;> rfl
@[simp] theorem State.setFlagsIf_spsrAbt (s : State) (on : Bool) (f : Flags) : (s.setFlagsIf on f).spsrAbt = s.spsrAbt := by
  unfold State.setFlagsIf; cases on <;> rfl
@[simp] theorem State.setFlagsIf_spsrUnd (s : State) (on : Bool) (f : Flags) : (s.setFlagsIf on f).spsrUnd = s.spsrUnd := by
  unfold State.setFlagsIf; cases on <;> rfl
@[simp] theorem State.setFlagsIf_cp15 (s : State) (on : Bool) (f : Flags) : (s.setFlagsIf on f).cp15 = s.cp15 := by
  unfold State.setFlagsIf; cases on <;> rfl
@[simp] theorem State.setFlagsIf_sys (s : State) (on : Bool) (f : Flags) : (s.setFlagsIf on f).sys = s.sys := by
  unfold State.setFlagsIf; cases on <;> rfl
@[simp] theorem State.setFlagsIf_bankHazard (s : State) (on : Bool) (f : Flags) : (s.setFlagsIf on f).bankHazard = s.bankHazard := by
  unfold State.setFlagsIf; cases on <;> rfl
@[simp] theorem State.setFlagsIf_inputs (s : State) (on : Bool) (f : Flags) : (s.setFlagsIf on f).inputs = s.inputs := by
  unfold State.setFlagsIf; cases on <;> rfl

@[simp] theorem State.withSys_regs (s : State) (m : MemSys) : (s.withSys m).regs = s.regs := rfl
@[simp] theorem State.withSys_pc (s : State) (m : MemSys) : (s.withSys m).pc = s.pc := rfl
@[simp] theorem State.withSys_cpsr (s : State) (m : MemSys) : (s.withSys m).cpsr = s.cpsr := rfl
@[simp] theorem State.withSys_spsrFiq (s : State) (m : MemSys) : (s.withSys m).spsrFiq = s.spsrFiq := rfl
@[simp] theorem State.withSys_spsrIrq (s : State) (m : MemSys) : (s.withSys m).spsrIrq = s.spsrIrq := rfl
@[simp] theorem State.withSys_spsrSvc (s : State) (m : MemSys) : (s.withSys m).spsrSvc = s.spsrSvc := rfl
@[simp] theorem State.withSys_spsrAbt (s : State) (m : MemSys) : (s.withSys m).spsrAbt = s.spsrAbt := rfl
@[simp] theorem State.withSys_spsrUnd (s : State) (m : MemSys) : (s.withSys m).spsrUnd = s.spsrUnd := rfl
@[simp] theorem State.withSys_cp15 (s : State) (m : MemSys) : (s.withSys m).cp15 = s.cp15 := rfl
@[simp] theorem State.withSys_sys (s : State) (m : MemSys) : (s.withSys m).sys = m := rfl
@[simp] theorem State.withSys_bankHazard (s : State) (m : MemSys) : (s.withSys m).bankHazard = s.bankHazard := rfl
@[simp] theorem State.withSys_inputs (s : State) (m : MemSys) : (s.withSys m).inputs = s.inputs := rfl

@[simp] theorem State.draw_state_regs (s : State) : (s.draw.2).regs = s.regs := rfl
@[simp] theorem State.draw_state_pc (s : State) : (s.draw.2).pc = s.pc := rfl
@[simp] theorem State.draw_state_cpsr (s : State) : (s.draw.2).cpsr = s.cpsr := rfl
@[simp] theorem State.draw_state_spsrFiq (s : State) : (s.draw.2).spsrFiq = s.spsrFiq := rfl
@[simp] theorem State.draw_state_spsrIrq (s : State) : (s.draw.2).spsrIrq = s.spsrIrq := rfl
@[simp] theorem State.draw_state_spsrSvc (s : State) : (s.draw.2).spsrSvc = s.spsrSvc := rfl
@[simp] theorem State.draw_state_spsrAbt (s : State) : (s.draw.2).spsrAbt = s.spsrAbt := rfl
@[simp] theorem State.draw_state_spsrUnd (s : State) : (s.draw.2).spsrUnd = s.spsrUnd := rfl
@[simp] theorem State.draw_state_cp15 (s : State) : (s.draw.2).cp15 = s.cp15 := rfl
@[simp] theorem State.draw_state_sys (s : State) : (s.draw.2).sys = s.sys.draw.2 := rfl
@[simp] theorem State.draw_state_bankHazard (s : State) : (s.draw.2).bankHazard = s.bankHazard := rfl
@[simp] theorem State.draw_state_inputs (s : State) : (s.draw.2).inputs = s.inputs := rfl

@[simp] theorem State.setSpsr_regs (s : State) (md : Mode) (v : Word) : (s.setSpsr md v).regs = s.regs := by
  cases md <;> rfl
@[simp] theorem State.setSpsr_pc (s : State) (md : Mode) (v : Word) : (s.setSpsr md v).pc = s.pc := by
  cases md <;> rfl
@[simp] theorem State.setSpsr_cpsr (s : State) (md : Mode) (v : Word) : (s.setSpsr md v).cpsr = s.cpsr := by
  cases md <;> rfl
@[simp] theorem State.setSpsr_spsrFiq (s : State) (md : Mode) (v : Word) : (s.setSpsr md v).spsrFiq = if md = .fiq then v else s.spsrFiq := by
  cases md <;> rfl
@[simp] theorem State.setSpsr_spsrIrq (s : State) (md : Mode) (v : Word) : (s.setSpsr md v).spsrIrq = if md = .irq then v else s.spsrIrq := by
  cases md <;> rfl
@[simp] theorem State.setSpsr_spsrSvc (s : State) (md : Mode) (v : Word) : (s.setSpsr md v).spsrSvc = if md = .svc then v else s.spsrSvc := by
  cases md <;> rfl
@[simp] theorem State.setSpsr_spsrAbt (s : State) (md : Mode) (v : Word) : (s.setSpsr md v).spsrAbt = if md = .abt then v else s.spsrAbt := by
  cases md <;> rfl
@[simp] theorem State.setSpsr_spsrUnd (s : State) (md : Mode) (v : Word) : (s.setSpsr md v).spsrUnd = if md = .und then v else s.spsrUnd := by
  cases md <;> rfl
@[simp] theorem State.setSpsr_cp15 (s : State) (md : Mode) (v : Word) : (s.setSpsr md v).cp15 = s.cp15 := by
  cases md <;> rfl
@[simp] theorem State.setSpsr_sys (s : State) (md : Mode) (v : Word) : (s.setSpsr md v).sys = s.sys := by
  cases md <;> rfl
@[simp] theorem State.setSpsr_bankHazard (s : State) (md : Mode) (v : Word) : (s.setSpsr md v).bankHazard = s.bankHazard := by
  cases md <;> rfl
@[simp] theorem State.setSpsr_inputs (s : State) (md : Mode) (v : Word) : (s.setSpsr md v).inputs = s.inputs := by
  cases md <;> rfl

@[simp] theorem State.clearHazard_regs (s : State) : (s.clearHazard).regs = s.regs := by
  unfold State.clearHazard; split <;> rfl
@[simp] theorem State.clearHazard_pc (s : State) : (s.clearHazard).pc = s.pc := by
  unfold State.clearHazard; split <;> rfl
@[simp] theorem State.clearHazard_cpsr (s : State) : (s.clearHazard).cpsr = s.cpsr := by
  unfold State.clearHazard; split <;> rfl
@[simp] theorem State.clearHazard_spsrFiq (s : State) : (s.clearHazard).spsrFiq = s.spsrFiq := by
  unfold State.clearHazard; split <;> rfl
@[simp] theorem State.clearHazard_spsrIrq (s : State) : (s.clearHazard).spsrIrq = s.spsrIrq := by
  unfold State.clearHazard; split <;> rfl
@[simp] theorem State.clearHazard_spsrSvc (s : State) : (s.clearHazard).spsrSvc = s.spsrSvc := by
  unfold State.clearHazard; split <;> rfl
@[simp] theorem State.clearHazard_spsrAbt (s : State) : (s.clearHazard).spsrAbt = s.spsrAbt := by
  unfold State.clearHazard; split <;> rfl
@[simp] theorem State.clearHazard_spsrUnd (s : State) : (s.clearHazard).spsrUnd = s.spsrUnd := by
  unfold State.clearHazard; split <;> rfl
@[simp] theorem State.clearHazard_cp15 (s : State) : (s.clearHazard).cp15 = s.cp15 := by
  unfold State.clearHazard; split <;> rfl
@[simp] theorem State.clearHazard_inputs (s : State) : (s.clearHazard).inputs = s.inputs := by
  unfold State.clearHazard; split <;> rfl

@[simp] theorem State.clearHazard_bankHazard (s : State) : s.clearHazard.bankHazard = false := by
  unfold State.clearHazard; split
  · rfl
  · simp_all

@[simp] theorem State.clearHazard_sys_mem (s : State) : (s.clearHazard).sys.mem = s.sys.mem := by
  unfold State.clearHazard; split <;> rfl
@[simp] theorem State.clearHazard_sys_wbuf (s : State) : (s.clearHazard).sys.wbuf = s.sys.wbuf := by
  unfold State.clearHazard; split <;> rfl
@[simp] theorem State.clearHazard_sys_cache (s : State) : (s.clearHazard).sys.cache = s.sys.cache := by
  unfold State.clearHazard; split <;> rfl
@[simp] theorem State.clearHazard_sys_tlb (s : State) : (s.clearHazard).sys.tlb = s.sys.tlb := by
  unfold State.clearHazard; split <;> rfl
@[simp] theorem State.clearHazard_sys_tlbNext (s : State) : (s.clearHazard).sys.tlbNext = s.sys.tlbNext := by
  unfold State.clearHazard; split <;> rfl
@[simp] theorem State.clearHazard_sys_busAborts (s : State) : (s.clearHazard).sys.busAborts = s.sys.busAborts := by
  unfold State.clearHazard; split <;> rfl
@[simp] theorem State.clearHazard_sys_volatile (s : State) : (s.clearHazard).sys.volatile = s.sys.volatile := by
  unfold State.clearHazard; split <;> rfl
@[simp] theorem State.clearHazard_sys_pipe (s : State) : (s.clearHazard).sys.pipe = s.sys.pipe := by
  unfold State.clearHazard; split <;> rfl

@[simp] theorem State.advance_sys_mem (s : State) : (s.advance).sys.mem = s.sys.mem := by
  simp [State.advance]
@[simp] theorem State.advance_sys_wbuf (s : State) : (s.advance).sys.wbuf = s.sys.wbuf := by
  simp [State.advance]
@[simp] theorem State.advance_sys_cache (s : State) : (s.advance).sys.cache = s.sys.cache := by
  simp [State.advance]
@[simp] theorem State.advance_sys_tlb (s : State) : (s.advance).sys.tlb = s.sys.tlb := by
  simp [State.advance]
@[simp] theorem State.advance_sys_tlbNext (s : State) : (s.advance).sys.tlbNext = s.sys.tlbNext := by
  simp [State.advance]
@[simp] theorem State.advance_sys_busAborts (s : State) : (s.advance).sys.busAborts = s.sys.busAborts := by
  simp [State.advance]
@[simp] theorem State.advance_sys_volatile (s : State) : (s.advance).sys.volatile = s.sys.volatile := by
  simp [State.advance]
@[simp] theorem State.advance_sys_pipe (s : State) : (s.advance).sys.pipe = s.sys.pipe.drop 1 := by
  simp [State.advance]

@[simp] theorem State.jump_sys_mem (s : State) (v : Word) : (s.jump v).sys.mem = s.sys.mem := by
  simp [State.jump]
@[simp] theorem State.jump_sys_wbuf (s : State) (v : Word) : (s.jump v).sys.wbuf = s.sys.wbuf := by
  simp [State.jump]
@[simp] theorem State.jump_sys_cache (s : State) (v : Word) : (s.jump v).sys.cache = s.sys.cache := by
  simp [State.jump]
@[simp] theorem State.jump_sys_tlb (s : State) (v : Word) : (s.jump v).sys.tlb = s.sys.tlb := by
  simp [State.jump]
@[simp] theorem State.jump_sys_tlbNext (s : State) (v : Word) : (s.jump v).sys.tlbNext = s.sys.tlbNext := by
  simp [State.jump]
@[simp] theorem State.jump_sys_busAborts (s : State) (v : Word) : (s.jump v).sys.busAborts = s.sys.busAborts := by
  simp [State.jump]
@[simp] theorem State.jump_sys_volatile (s : State) (v : Word) : (s.jump v).sys.volatile = s.sys.volatile := by
  simp [State.jump]
@[simp] theorem State.jump_sys_pipe (s : State) (v : Word) : (s.jump v).sys.pipe = [] := by
  simp [State.jump]

@[simp] theorem State.returnFrom_sys_mem (s : State) (p v : Word) : (s.returnFrom p v).sys.mem = s.sys.mem := by
  simp [State.returnFrom]
@[simp] theorem State.returnFrom_sys_wbuf (s : State) (p v : Word) : (s.returnFrom p v).sys.wbuf = s.sys.wbuf := by
  simp [State.returnFrom]
@[simp] theorem State.returnFrom_sys_cache (s : State) (p v : Word) : (s.returnFrom p v).sys.cache = s.sys.cache := by
  simp [State.returnFrom]
@[simp] theorem State.returnFrom_sys_tlb (s : State) (p v : Word) : (s.returnFrom p v).sys.tlb = s.sys.tlb := by
  simp [State.returnFrom]
@[simp] theorem State.returnFrom_sys_tlbNext (s : State) (p v : Word) : (s.returnFrom p v).sys.tlbNext = s.sys.tlbNext := by
  simp [State.returnFrom]
@[simp] theorem State.returnFrom_sys_busAborts (s : State) (p v : Word) : (s.returnFrom p v).sys.busAborts = s.sys.busAborts := by
  simp [State.returnFrom]
@[simp] theorem State.returnFrom_sys_volatile (s : State) (p v : Word) : (s.returnFrom p v).sys.volatile = s.sys.volatile := by
  simp [State.returnFrom]
@[simp] theorem State.returnFrom_sys_pipe (s : State) (p v : Word) : (s.returnFrom p v).sys.pipe = [] := by
  simp [State.returnFrom]

@[simp] theorem State.takeException_sys_mem (s : State) (e : Exception) : (s.takeException e).sys.mem = s.sys.mem := by
  simp [State.takeException]
@[simp] theorem State.takeException_sys_wbuf (s : State) (e : Exception) : (s.takeException e).sys.wbuf = s.sys.wbuf := by
  simp [State.takeException]
@[simp] theorem State.takeException_sys_cache (s : State) (e : Exception) : (s.takeException e).sys.cache = s.sys.cache := by
  simp [State.takeException]
@[simp] theorem State.takeException_sys_tlb (s : State) (e : Exception) : (s.takeException e).sys.tlb = s.sys.tlb := by
  simp [State.takeException]
@[simp] theorem State.takeException_sys_tlbNext (s : State) (e : Exception) : (s.takeException e).sys.tlbNext = s.sys.tlbNext := by
  simp [State.takeException]
@[simp] theorem State.takeException_sys_busAborts (s : State) (e : Exception) : (s.takeException e).sys.busAborts = s.sys.busAborts := by
  simp [State.takeException]
@[simp] theorem State.takeException_sys_volatile (s : State) (e : Exception) : (s.takeException e).sys.volatile = s.sys.volatile := by
  simp [State.takeException]
@[simp] theorem State.takeException_sys_pipe (s : State) (e : Exception) : (s.takeException e).sys.pipe = [] := by
  simp [State.takeException]

@[simp] theorem State.advance_regs (s : State) : (s.advance).regs = s.regs := by
  simp [State.advance]
@[simp] theorem State.advance_pc (s : State) : (s.advance).pc = s.pc + 4#32 := by
  simp [State.advance]
@[simp] theorem State.advance_cpsr (s : State) : (s.advance).cpsr = s.cpsr := by
  simp [State.advance]
@[simp] theorem State.advance_spsrFiq (s : State) : (s.advance).spsrFiq = s.spsrFiq := by
  simp [State.advance]
@[simp] theorem State.advance_spsrIrq (s : State) : (s.advance).spsrIrq = s.spsrIrq := by
  simp [State.advance]
@[simp] theorem State.advance_spsrSvc (s : State) : (s.advance).spsrSvc = s.spsrSvc := by
  simp [State.advance]
@[simp] theorem State.advance_spsrAbt (s : State) : (s.advance).spsrAbt = s.spsrAbt := by
  simp [State.advance]
@[simp] theorem State.advance_spsrUnd (s : State) : (s.advance).spsrUnd = s.spsrUnd := by
  simp [State.advance]
@[simp] theorem State.advance_cp15 (s : State) : (s.advance).cp15 = s.cp15 := by
  simp [State.advance]
@[simp] theorem State.advance_bankHazard (s : State) : (s.advance).bankHazard = false := by
  simp [State.advance]
@[simp] theorem State.advance_inputs (s : State) : (s.advance).inputs = s.inputs := by
  simp [State.advance]

@[simp] theorem State.jump_regs (s : State) (v : Word) : (s.jump v).regs = s.regs := by
  simp [State.jump]
@[simp] theorem State.jump_pc (s : State) (v : Word) : (s.jump v).pc = alignWord v := by
  simp [State.jump]
@[simp] theorem State.jump_cpsr (s : State) (v : Word) : (s.jump v).cpsr = s.cpsr := by
  simp [State.jump]
@[simp] theorem State.jump_spsrFiq (s : State) (v : Word) : (s.jump v).spsrFiq = s.spsrFiq := by
  simp [State.jump]
@[simp] theorem State.jump_spsrIrq (s : State) (v : Word) : (s.jump v).spsrIrq = s.spsrIrq := by
  simp [State.jump]
@[simp] theorem State.jump_spsrSvc (s : State) (v : Word) : (s.jump v).spsrSvc = s.spsrSvc := by
  simp [State.jump]
@[simp] theorem State.jump_spsrAbt (s : State) (v : Word) : (s.jump v).spsrAbt = s.spsrAbt := by
  simp [State.jump]
@[simp] theorem State.jump_spsrUnd (s : State) (v : Word) : (s.jump v).spsrUnd = s.spsrUnd := by
  simp [State.jump]
@[simp] theorem State.jump_cp15 (s : State) (v : Word) : (s.jump v).cp15 = s.cp15 := by
  simp [State.jump]
@[simp] theorem State.jump_bankHazard (s : State) (v : Word) : (s.jump v).bankHazard = false := by
  simp [State.jump]
@[simp] theorem State.jump_inputs (s : State) (v : Word) : (s.jump v).inputs = s.inputs := by
  simp [State.jump]

@[simp] theorem State.returnFrom_regs (s : State) (p v : Word) : (s.returnFrom p v).regs = s.regs := by
  simp [State.returnFrom]
@[simp] theorem State.returnFrom_pc (s : State) (p v : Word) : (s.returnFrom p v).pc = alignWord v := by
  simp [State.returnFrom]
@[simp] theorem State.returnFrom_cpsr (s : State) (p v : Word) : (s.returnFrom p v).cpsr = p := by
  simp [State.returnFrom]
@[simp] theorem State.returnFrom_spsrFiq (s : State) (p v : Word) : (s.returnFrom p v).spsrFiq = s.spsrFiq := by
  simp [State.returnFrom]
@[simp] theorem State.returnFrom_spsrIrq (s : State) (p v : Word) : (s.returnFrom p v).spsrIrq = s.spsrIrq := by
  simp [State.returnFrom]
@[simp] theorem State.returnFrom_spsrSvc (s : State) (p v : Word) : (s.returnFrom p v).spsrSvc = s.spsrSvc := by
  simp [State.returnFrom]
@[simp] theorem State.returnFrom_spsrAbt (s : State) (p v : Word) : (s.returnFrom p v).spsrAbt = s.spsrAbt := by
  simp [State.returnFrom]
@[simp] theorem State.returnFrom_spsrUnd (s : State) (p v : Word) : (s.returnFrom p v).spsrUnd = s.spsrUnd := by
  simp [State.returnFrom]
@[simp] theorem State.returnFrom_cp15 (s : State) (p v : Word) : (s.returnFrom p v).cp15 = s.cp15 := by
  simp [State.returnFrom]
@[simp] theorem State.returnFrom_bankHazard (s : State) (p v : Word) : (s.returnFrom p v).bankHazard = false := by
  simp [State.returnFrom]
@[simp] theorem State.returnFrom_inputs (s : State) (p v : Word) : (s.returnFrom p v).inputs = s.inputs := by
  simp [State.returnFrom]

@[simp] theorem State.raiseHazard_regs (s : State) : (s.raiseHazard).regs = s.regs := rfl
@[simp] theorem State.raiseHazard_pc (s : State) : (s.raiseHazard).pc = s.pc := rfl
@[simp] theorem State.raiseHazard_cpsr (s : State) : (s.raiseHazard).cpsr = s.cpsr := rfl
@[simp] theorem State.raiseHazard_spsrFiq (s : State) : (s.raiseHazard).spsrFiq = s.spsrFiq := rfl
@[simp] theorem State.raiseHazard_spsrIrq (s : State) : (s.raiseHazard).spsrIrq = s.spsrIrq := rfl
@[simp] theorem State.raiseHazard_spsrSvc (s : State) : (s.raiseHazard).spsrSvc = s.spsrSvc := rfl
@[simp] theorem State.raiseHazard_spsrAbt (s : State) : (s.raiseHazard).spsrAbt = s.spsrAbt := rfl
@[simp] theorem State.raiseHazard_spsrUnd (s : State) : (s.raiseHazard).spsrUnd = s.spsrUnd := rfl
@[simp] theorem State.raiseHazard_cp15 (s : State) : (s.raiseHazard).cp15 = s.cp15 := rfl
@[simp] theorem State.raiseHazard_sys (s : State) : (s.raiseHazard).sys = s.sys := rfl
@[simp] theorem State.raiseHazard_bankHazard (s : State) : (s.raiseHazard).bankHazard = true := rfl
@[simp] theorem State.raiseHazard_inputs (s : State) : (s.raiseHazard).inputs = s.inputs := rfl

@[simp] theorem State.takeException_regs (s : State) (e : Exception) : (s.takeException e).regs = s.regs.setIfInBounds e.mode.r14.idx (s.pc + e.returnOffset) := by
  simp [State.takeException]
@[simp] theorem State.takeException_pc (s : State) (e : Exception) : (s.takeException e).pc = alignWord e.vector := by
  simp [State.takeException]
@[simp] theorem State.takeException_cpsr (s : State) (e : Exception) : (s.takeException e).cpsr = entryPsr s.cpsr e.mode e.setsF := by
  simp [State.takeException]
@[simp] theorem State.takeException_spsrFiq (s : State) (e : Exception) : (s.takeException e).spsrFiq = if e.mode = .fiq then s.cpsr else s.spsrFiq := by
  simp [State.takeException]
@[simp] theorem State.takeException_spsrIrq (s : State) (e : Exception) : (s.takeException e).spsrIrq = if e.mode = .irq then s.cpsr else s.spsrIrq := by
  simp [State.takeException]
@[simp] theorem State.takeException_spsrSvc (s : State) (e : Exception) : (s.takeException e).spsrSvc = if e.mode = .svc then s.cpsr else s.spsrSvc := by
  simp [State.takeException]
@[simp] theorem State.takeException_spsrAbt (s : State) (e : Exception) : (s.takeException e).spsrAbt = if e.mode = .abt then s.cpsr else s.spsrAbt := by
  simp [State.takeException]
@[simp] theorem State.takeException_spsrUnd (s : State) (e : Exception) : (s.takeException e).spsrUnd = if e.mode = .und then s.cpsr else s.spsrUnd := by
  simp [State.takeException]
@[simp] theorem State.takeException_cp15 (s : State) (e : Exception) : (s.takeException e).cp15 = s.cp15 := by
  simp [State.takeException]
@[simp] theorem State.takeException_bankHazard (s : State) (e : Exception) : (s.takeException e).bankHazard = false := by
  simp [State.takeException]
@[simp] theorem State.takeException_inputs (s : State) (e : Exception) : (s.takeException e).inputs = s.inputs := by
  simp [State.takeException]

@[simp] theorem State.writeBack_pc (s : State) (md : Mode) (ix : Indexing) (rn : RegNo) (v : Word) : (Sys2Proof.Machine.writeBack s md ix rn v).pc = s.pc := by
  unfold Sys2Proof.Machine.writeBack; split <;> simp
@[simp] theorem State.writeBack_cpsr (s : State) (md : Mode) (ix : Indexing) (rn : RegNo) (v : Word) : (Sys2Proof.Machine.writeBack s md ix rn v).cpsr = s.cpsr := by
  unfold Sys2Proof.Machine.writeBack; split <;> simp
@[simp] theorem State.writeBack_spsrFiq (s : State) (md : Mode) (ix : Indexing) (rn : RegNo) (v : Word) : (Sys2Proof.Machine.writeBack s md ix rn v).spsrFiq = s.spsrFiq := by
  unfold Sys2Proof.Machine.writeBack; split <;> simp
@[simp] theorem State.writeBack_spsrIrq (s : State) (md : Mode) (ix : Indexing) (rn : RegNo) (v : Word) : (Sys2Proof.Machine.writeBack s md ix rn v).spsrIrq = s.spsrIrq := by
  unfold Sys2Proof.Machine.writeBack; split <;> simp
@[simp] theorem State.writeBack_spsrSvc (s : State) (md : Mode) (ix : Indexing) (rn : RegNo) (v : Word) : (Sys2Proof.Machine.writeBack s md ix rn v).spsrSvc = s.spsrSvc := by
  unfold Sys2Proof.Machine.writeBack; split <;> simp
@[simp] theorem State.writeBack_spsrAbt (s : State) (md : Mode) (ix : Indexing) (rn : RegNo) (v : Word) : (Sys2Proof.Machine.writeBack s md ix rn v).spsrAbt = s.spsrAbt := by
  unfold Sys2Proof.Machine.writeBack; split <;> simp
@[simp] theorem State.writeBack_spsrUnd (s : State) (md : Mode) (ix : Indexing) (rn : RegNo) (v : Word) : (Sys2Proof.Machine.writeBack s md ix rn v).spsrUnd = s.spsrUnd := by
  unfold Sys2Proof.Machine.writeBack; split <;> simp
@[simp] theorem State.writeBack_cp15 (s : State) (md : Mode) (ix : Indexing) (rn : RegNo) (v : Word) : (Sys2Proof.Machine.writeBack s md ix rn v).cp15 = s.cp15 := by
  unfold Sys2Proof.Machine.writeBack; split <;> simp
@[simp] theorem State.writeBack_sys (s : State) (md : Mode) (ix : Indexing) (rn : RegNo) (v : Word) : (Sys2Proof.Machine.writeBack s md ix rn v).sys = s.sys := by
  unfold Sys2Proof.Machine.writeBack; split <;> simp
@[simp] theorem State.writeBack_bankHazard (s : State) (md : Mode) (ix : Indexing) (rn : RegNo) (v : Word) : (Sys2Proof.Machine.writeBack s md ix rn v).bankHazard = s.bankHazard := by
  unfold Sys2Proof.Machine.writeBack; split <;> simp
@[simp] theorem State.writeBack_inputs (s : State) (md : Mode) (ix : Indexing) (rn : RegNo) (v : Word) : (Sys2Proof.Machine.writeBack s md ix rn v).inputs = s.inputs := by
  unfold Sys2Proof.Machine.writeBack; split <;> simp

@[simp] theorem State.blockWriteBack_pc (s0 s : State) (md : Mode) (up w : Bool) (rn : RegNo) (list : BitVec 16) : (Sys2Proof.Machine.blockWriteBack s0 s md up w rn list).pc = s.pc := by
  unfold Sys2Proof.Machine.blockWriteBack; split <;> simp
@[simp] theorem State.blockWriteBack_cpsr (s0 s : State) (md : Mode) (up w : Bool) (rn : RegNo) (list : BitVec 16) : (Sys2Proof.Machine.blockWriteBack s0 s md up w rn list).cpsr = s.cpsr := by
  unfold Sys2Proof.Machine.blockWriteBack; split <;> simp
@[simp] theorem State.blockWriteBack_spsrFiq (s0 s : State) (md : Mode) (up w : Bool) (rn : RegNo) (list : BitVec 16) : (Sys2Proof.Machine.blockWriteBack s0 s md up w rn list).spsrFiq = s.spsrFiq := by
  unfold Sys2Proof.Machine.blockWriteBack; split <;> simp
@[simp] theorem State.blockWriteBack_spsrIrq (s0 s : State) (md : Mode) (up w : Bool) (rn : RegNo) (list : BitVec 16) : (Sys2Proof.Machine.blockWriteBack s0 s md up w rn list).spsrIrq = s.spsrIrq := by
  unfold Sys2Proof.Machine.blockWriteBack; split <;> simp
@[simp] theorem State.blockWriteBack_spsrSvc (s0 s : State) (md : Mode) (up w : Bool) (rn : RegNo) (list : BitVec 16) : (Sys2Proof.Machine.blockWriteBack s0 s md up w rn list).spsrSvc = s.spsrSvc := by
  unfold Sys2Proof.Machine.blockWriteBack; split <;> simp
@[simp] theorem State.blockWriteBack_spsrAbt (s0 s : State) (md : Mode) (up w : Bool) (rn : RegNo) (list : BitVec 16) : (Sys2Proof.Machine.blockWriteBack s0 s md up w rn list).spsrAbt = s.spsrAbt := by
  unfold Sys2Proof.Machine.blockWriteBack; split <;> simp
@[simp] theorem State.blockWriteBack_spsrUnd (s0 s : State) (md : Mode) (up w : Bool) (rn : RegNo) (list : BitVec 16) : (Sys2Proof.Machine.blockWriteBack s0 s md up w rn list).spsrUnd = s.spsrUnd := by
  unfold Sys2Proof.Machine.blockWriteBack; split <;> simp
@[simp] theorem State.blockWriteBack_cp15 (s0 s : State) (md : Mode) (up w : Bool) (rn : RegNo) (list : BitVec 16) : (Sys2Proof.Machine.blockWriteBack s0 s md up w rn list).cp15 = s.cp15 := by
  unfold Sys2Proof.Machine.blockWriteBack; split <;> simp
@[simp] theorem State.blockWriteBack_sys (s0 s : State) (md : Mode) (up w : Bool) (rn : RegNo) (list : BitVec 16) : (Sys2Proof.Machine.blockWriteBack s0 s md up w rn list).sys = s.sys := by
  unfold Sys2Proof.Machine.blockWriteBack; split <;> simp
@[simp] theorem State.blockWriteBack_bankHazard (s0 s : State) (md : Mode) (up w : Bool) (rn : RegNo) (list : BitVec 16) : (Sys2Proof.Machine.blockWriteBack s0 s md up w rn list).bankHazard = s.bankHazard := by
  unfold Sys2Proof.Machine.blockWriteBack; split <;> simp
@[simp] theorem State.blockWriteBack_inputs (s0 s : State) (md : Mode) (up w : Bool) (rn : RegNo) (list : BitVec 16) : (Sys2Proof.Machine.blockWriteBack s0 s md up w rn list).inputs = s.inputs := by
  unfold Sys2Proof.Machine.blockWriteBack; split <;> simp

@[simp] theorem State.writeRegisters_pc (md : Mode) (rs : List RegNo) (ws : List Word) (s : State) : (Sys2Proof.Machine.writeRegisters s md rs ws).pc = s.pc := by
  induction rs generalizing ws s with
  | nil => rfl
  | cons r rs ih => cases ws with
    | nil => rfl
    | cons w ws => simp [Sys2Proof.Machine.writeRegisters, ih]
@[simp] theorem State.writeRegisters_cpsr (md : Mode) (rs : List RegNo) (ws : List Word) (s : State) : (Sys2Proof.Machine.writeRegisters s md rs ws).cpsr = s.cpsr := by
  induction rs generalizing ws s with
  | nil => rfl
  | cons r rs ih => cases ws with
    | nil => rfl
    | cons w ws => simp [Sys2Proof.Machine.writeRegisters, ih]
@[simp] theorem State.writeRegisters_spsrFiq (md : Mode) (rs : List RegNo) (ws : List Word) (s : State) : (Sys2Proof.Machine.writeRegisters s md rs ws).spsrFiq = s.spsrFiq := by
  induction rs generalizing ws s with
  | nil => rfl
  | cons r rs ih => cases ws with
    | nil => rfl
    | cons w ws => simp [Sys2Proof.Machine.writeRegisters, ih]
@[simp] theorem State.writeRegisters_spsrIrq (md : Mode) (rs : List RegNo) (ws : List Word) (s : State) : (Sys2Proof.Machine.writeRegisters s md rs ws).spsrIrq = s.spsrIrq := by
  induction rs generalizing ws s with
  | nil => rfl
  | cons r rs ih => cases ws with
    | nil => rfl
    | cons w ws => simp [Sys2Proof.Machine.writeRegisters, ih]
@[simp] theorem State.writeRegisters_spsrSvc (md : Mode) (rs : List RegNo) (ws : List Word) (s : State) : (Sys2Proof.Machine.writeRegisters s md rs ws).spsrSvc = s.spsrSvc := by
  induction rs generalizing ws s with
  | nil => rfl
  | cons r rs ih => cases ws with
    | nil => rfl
    | cons w ws => simp [Sys2Proof.Machine.writeRegisters, ih]
@[simp] theorem State.writeRegisters_spsrAbt (md : Mode) (rs : List RegNo) (ws : List Word) (s : State) : (Sys2Proof.Machine.writeRegisters s md rs ws).spsrAbt = s.spsrAbt := by
  induction rs generalizing ws s with
  | nil => rfl
  | cons r rs ih => cases ws with
    | nil => rfl
    | cons w ws => simp [Sys2Proof.Machine.writeRegisters, ih]
@[simp] theorem State.writeRegisters_spsrUnd (md : Mode) (rs : List RegNo) (ws : List Word) (s : State) : (Sys2Proof.Machine.writeRegisters s md rs ws).spsrUnd = s.spsrUnd := by
  induction rs generalizing ws s with
  | nil => rfl
  | cons r rs ih => cases ws with
    | nil => rfl
    | cons w ws => simp [Sys2Proof.Machine.writeRegisters, ih]
@[simp] theorem State.writeRegisters_cp15 (md : Mode) (rs : List RegNo) (ws : List Word) (s : State) : (Sys2Proof.Machine.writeRegisters s md rs ws).cp15 = s.cp15 := by
  induction rs generalizing ws s with
  | nil => rfl
  | cons r rs ih => cases ws with
    | nil => rfl
    | cons w ws => simp [Sys2Proof.Machine.writeRegisters, ih]
@[simp] theorem State.writeRegisters_sys (md : Mode) (rs : List RegNo) (ws : List Word) (s : State) : (Sys2Proof.Machine.writeRegisters s md rs ws).sys = s.sys := by
  induction rs generalizing ws s with
  | nil => rfl
  | cons r rs ih => cases ws with
    | nil => rfl
    | cons w ws => simp [Sys2Proof.Machine.writeRegisters, ih]
@[simp] theorem State.writeRegisters_bankHazard (md : Mode) (rs : List RegNo) (ws : List Word) (s : State) : (Sys2Proof.Machine.writeRegisters s md rs ws).bankHazard = s.bankHazard := by
  induction rs generalizing ws s with
  | nil => rfl
  | cons r rs ih => cases ws with
    | nil => rfl
    | cons w ws => simp [Sys2Proof.Machine.writeRegisters, ih]
@[simp] theorem State.writeRegisters_inputs (md : Mode) (rs : List RegNo) (ws : List Word) (s : State) : (Sys2Proof.Machine.writeRegisters s md rs ws).inputs = s.inputs := by
  induction rs generalizing ws s with
  | nil => rfl
  | cons r rs ih => cases ws with
    | nil => rfl
    | cons w ws => simp [Sys2Proof.Machine.writeRegisters, ih]

@[simp] theorem State.write_sys_free (s : State) (md : Mode) (n : RegNo) (v : Word) :
    (s.write md n v).sys.free = s.sys.free := by simp

@[simp] theorem State.draw_value (s : State) : s.draw.1 = Config.freeWord s.sys.free := rfl

@[simp] theorem State.preg_withSys (s : State) (m : MemSys) (p : PReg) : (s.withSys m).preg p = s.preg p := rfl
@[simp] theorem State.preg_setCpsr (s : State) (v : Word) (p : PReg) : (s.setCpsr v).preg p = s.preg p := rfl
@[simp] theorem State.preg_draw (s : State) (p : PReg) : s.draw.2.preg p = s.preg p := rfl
@[simp] theorem State.preg_setFlags (s : State) (f : Flags) (p : PReg) : (s.setFlags f).preg p = s.preg p := rfl
@[simp] theorem State.preg_setFlagsIf (s : State) (on : Bool) (f : Flags) (p : PReg) :
    (s.setFlagsIf on f).preg p = s.preg p := by simp [State.preg]
@[simp] theorem State.preg_setSpsr (s : State) (md : Mode) (v : Word) (p : PReg) :
    (s.setSpsr md v).preg p = s.preg p := by simp [State.preg]
@[simp] theorem State.preg_advance (s : State) (p : PReg) : s.advance.preg p = s.preg p := by simp [State.preg]
@[simp] theorem State.preg_jump (s : State) (v : Word) (p : PReg) : (s.jump v).preg p = s.preg p := by
  simp [State.preg]
@[simp] theorem State.preg_returnFrom (s : State) (q v : Word) (p : PReg) :
    (s.returnFrom q v).preg p = s.preg p := by simp [State.preg]

/-- Every register has a place of its own. -/
theorem PReg.idx_lt (p : PReg) : p.idx < 30 := by cases p <;> decide

/-- Every register has a place of its own. -/
theorem PReg.idx_inj {p q : PReg} (h : p.idx = q.idx) : p = q := by
  revert h; cases p <;> cases q <;> simp [PReg.idx]

/-- A write of one physical register, read back: itself changed, every other kept. -/
@[simp] theorem State.preg_setPreg (s : State) (p q : PReg) (v : Word) :
    (s.setPreg p v).preg q = if q = p then v else s.preg q := by
  have hp := p.idx_lt
  have hq := q.idx_lt
  unfold State.preg State.setPreg
  simp only [List.getD_eq_getElem?_getD, Vector.toList_setIfInBounds, List.getElem?_set]
  by_cases h : q = p
  · subst h; simp [hq]
  · rw [if_neg h, if_neg fun e => h (PReg.idx_inj e.symm)]

/-- A write through a bank: the register it names changed, every other kept. -/
theorem State.preg_write (s : State) (md : Mode) (n : RegNo) (v : Word) (q : PReg) :
    (s.write md n v).preg q = if md.bank n = some q then v else s.preg q := by
  unfold State.write
  cases h : md.bank n with
  | none => simp
  | some p => simp [eq_comm]

@[simp] theorem State.preg_takeException (s : State) (e : Exception) (q : PReg) :
    (s.takeException e).preg q = if q = e.mode.r14 then s.pc + e.returnOffset else s.preg q := by
  simp [State.takeException]

end Sys2Proof.Machine
end

