-- ==== Sys2Proof/Laws/Ops.lean ====
section
/-! SUPPORT. What the shared operations over the state do: the gate, the ends of an instruction, taking an exception, the data
abort. -/

namespace Sys2Proof.Machine

theorem State.Runs.gate {s : State} {md : Mode} (h : s.Runs md) (body : Mode → Result) : s.gate body = body md := by
  simp [State.gate, h.1, h.2.1, h.2.2]

theorem State.Executes.run {s : State} {md : Mode} {c : Cond} (h : s.Executes md c) (body : Mode → Result) :
    conditionally c s body = body md := by
  simp [conditionally, h.1.gate, h.2]

theorem State.Runs.skip {s : State} {md : Mode} {c : Cond} (h : s.Runs md) (hc : conditionHolds c s.flags = false)
    (body : Mode → Result) : conditionally c s body = .next s.advance := by
  simp [conditionally, h.gate, hc]

/-- What an instruction that answers a next state has passed. -/
theorem conditionally_next {c : Cond} {s t : State} {body : Mode → Result} (h : conditionally c s body = .next t) :
    ∃ md, s.Runs md ∧
      ((conditionHolds c s.flags = true ∧ body md = .next t) ∨ (conditionHolds c s.flags = false ∧ t = s.advance)) := by
  unfold conditionally State.gate at h
  split at h
  · cases h
  · rename_i md hm
    split at h
    · rename_i hg
      simp only [Bool.and_eq_true] at hg
      refine ⟨md, ⟨hm, hg.1, hg.2⟩, ?_⟩
      split at h
      · rename_i hc; exact .inl ⟨hc, h⟩
      · rename_i hc; exact .inr ⟨by simpa using hc, by cases h; rfl⟩
    · cases h

@[simp] theorem State.physByte_advance (s : State) (a : Nat) : s.advance.sys.physByte a = s.sys.physByte a := by
  simp [MemSys.physByte]

@[simp] theorem State.physByte_jump (s : State) (v : Word) (a : Nat) :
    (s.jump v).sys.physByte a = s.sys.physByte a := by
  simp [MemSys.physByte]

@[simp] theorem State.physByte_takeException (s : State) (e : Exception) (a : Nat) :
    (s.takeException e).sys.physByte a = s.sys.physByte a := by
  simp [MemSys.physByte]

theorem State.spsr_eq {s t : State} (h1 : t.spsrFiq = s.spsrFiq) (h2 : t.spsrIrq = s.spsrIrq)
    (h3 : t.spsrSvc = s.spsrSvc) (h4 : t.spsrAbt = s.spsrAbt) (h5 : t.spsrUnd = s.spsrUnd) (m : Mode) :
    t.spsr m = s.spsr m := by
  cases m <;> simp [State.spsr, h1, h2, h3, h4, h5]

@[simp] theorem State.spsr_setPreg (s : State) (p : PReg) (v : Word) (m : Mode) :
    (s.setPreg p v).spsr m = s.spsr m := by cases m <;> rfl
@[simp] theorem State.spsr_write (s : State) (md : Mode) (n : RegNo) (v : Word) (m : Mode) :
    (s.write md n v).spsr m = s.spsr m := State.spsr_eq (by simp) (by simp) (by simp) (by simp) (by simp) m
@[simp] theorem State.spsr_setCpsr (s : State) (v : Word) (m : Mode) : (s.setCpsr v).spsr m = s.spsr m := by
  cases m <;> rfl
@[simp] theorem State.spsr_setFlagsIf (s : State) (on : Bool) (f : Flags) (m : Mode) :
    (s.setFlagsIf on f).spsr m = s.spsr m := State.spsr_eq (by simp) (by simp) (by simp) (by simp) (by simp) m
@[simp] theorem State.spsr_setFlags (s : State) (f : Flags) (m : Mode) : (s.setFlags f).spsr m = s.spsr m := by
  cases m <;> rfl
@[simp] theorem State.spsr_withSys (s : State) (x : MemSys) (m : Mode) : (s.withSys x).spsr m = s.spsr m := by
  cases m <;> rfl
@[simp] theorem State.spsr_draw (s : State) (m : Mode) : s.draw.2.spsr m = s.spsr m := by cases m <;> rfl
@[simp] theorem State.spsr_advance (s : State) (m : Mode) : s.advance.spsr m = s.spsr m :=
  State.spsr_eq (by simp) (by simp) (by simp) (by simp) (by simp) m
@[simp] theorem State.spsr_jump (s : State) (v : Word) (m : Mode) : (s.jump v).spsr m = s.spsr m :=
  State.spsr_eq (by simp) (by simp) (by simp) (by simp) (by simp) m

/-- A write of an SPSR, read back: itself changed, every other kept; nothing to write in User mode. -/
theorem State.spsr_setSpsr (s : State) (md m : Mode) (v : Word) :
    (s.setSpsr md v).spsr m = if m = md ∧ md ≠ .usr then some v else s.spsr m := by
  cases md <;> cases m <;> rfl

/-- Going on keeps everything but the pc. -/
theorem State.advance_keeps (s : State) :
    s.KeepsRegs s.advance ∧ s.advance.cpsr = s.cpsr ∧ s.KeepsSpecial s.advance ∧ s.KeepsMemory s.advance ∧
      s.WentOn s.advance :=
  ⟨fun p => by simp, by simp, ⟨fun m => by simp, by simp⟩, fun a => by simp, ⟨by simp, by simp⟩⟩

/-- The mode of an exception is privileged. -/
theorem Exception.mode_ne_usr (e : Exception) : e.mode ≠ .usr := by cases e <;> decide

/-- A bit of the CPSR an exception entry leaves. -/
theorem entryPsr_getLsbD (p : Word) (md : Mode) (f : Bool) (i : Nat) :
    (entryPsr p md f).getLsbD i =
      if i < 5 then md.bits.getLsbD i else if i = 5 then p.getLsbD 5 else if i = 6 then (f || p.getLsbD 6)
      else if i = 7 then true else p.getLsbD i := by
  change BitVec.getLsbD (w := 24 + 1 + 1 + 1 + 5)
    (p.extractLsb' 8 24 ++ 1#1 ++ BitVec.ofBool (f || psrF p) ++ p.extractLsb' 5 1 ++ md.bits) i = _
  rw [BitVec.getLsbD_append]
  split
  · rfl
  · rename_i h5
    rw [BitVec.getLsbD_append]
    split
    · simp [show i = 5 by omega]
    · rw [BitVec.getLsbD_append]
      split
      · simp [show i = 6 by omega, psrF]
      · rw [BitVec.getLsbD_append]
        split
        · simp [show i = 7 by omega]
        · rw [if_neg (by omega), if_neg (by omega), if_neg (by omega)]
          simp only [BitVec.getLsbD_extractLsb', show 8 + (i - 5 - 1 - 1 - 1) = i by omega]
          by_cases hi : i < 32
          · simp [show i - 5 - 1 - 1 - 1 < 24 by omega]
          · rw [BitVec.getLsbD_of_ge p i (by omega), Bool.and_false]

theorem entryPsr_mode (p : Word) (md : Mode) (f : Bool) : psrMode (entryPsr p md f) = some md := by
  have h : (entryPsr p md f).extractLsb' 0 5 = md.bits := by
    ext i hi
    simp [BitVec.getElem_extractLsb', entryPsr_getLsbD, hi]
  unfold psrMode
  rw [h]
  cases md <;> rfl

theorem entryPsr_bits (p : Word) (md : Mode) (f : Bool) :
    (entryPsr p md f).getLsbD 7 = true ∧ (entryPsr p md f).getLsbD 6 = (f || p.getLsbD 6) ∧
      (entryPsr p md f).extractLsb' 8 24 = p.extractLsb' 8 24 ∧ (entryPsr p md f).getLsbD 5 = p.getLsbD 5 := by
  refine ⟨by rw [entryPsr_getLsbD]; rfl, by rw [entryPsr_getLsbD]; rfl, ?_, by rw [entryPsr_getLsbD]; rfl⟩
  ext i hi
  simp only [BitVec.getElem_extractLsb', entryPsr_getLsbD]
  rw [if_neg (by omega), if_neg (by omega), if_neg (by omega), if_neg (by omega)]

/-- Taking an exception is what rules R431 and R439 say it is. -/
theorem State.takeException_entered (s : State) (e : Exception) : s.Entered (s.takeException e) e := by
  have hs : ∀ m, (s.takeException e).spsr m = if m = e.mode then some s.cpsr else s.spsr m := fun m => by
    simp [State.takeException, State.spsr_setSpsr, e.mode_ne_usr]
  have hc : (s.takeException e).cpsr = entryPsr s.cpsr e.mode e.setsF := by simp [State.takeException]
  have hb := entryPsr_bits s.cpsr e.mode e.setsF
  exact
    { link := by simp
      regs := fun p => by by_cases h : p = e.mode.r14 <;> simp [h]
      saved := by simp [hs]
      spsrs := fun m => by by_cases h : m = e.mode <;> simp [h, hs]
      mode := by rw [State.mode, hc, entryPsr_mode]
      irqMask := by rw [hc]; exact hb.1
      fiqMask := by rw [hc]; exact hb.2.1
      rest := by rw [hc]; exact hb.2.2
      vector := by simp only [State.takeException, State.jump_pc]; cases e <;> decide }

theorem alignment_codes (b : BitVec 1) : 0#2 ++ b ++ 1#1 = 1#4 ∨ 0#2 ++ b ++ 1#1 = 3#4 := by
  revert b; decide

/-- The data abort enters the exception and records the fault (rules R120, R435). -/
theorem State.dataAbort_spec (s : State) (f : MemFault) :
    s.Entered (s.dataAbort f) .dataAbort ∧ s.Records (s.dataAbort f) f ∧ s.KeepsMemory (s.dataAbort f) := by
  have he := State.takeException_entered
    { s.draw.2.draw.2 with cp15 := s.cp15.recordFault f s.draw.1 s.draw.2.draw.1 } .dataAbort
  have hcp : (s.dataAbort f).cp15 = s.cp15.recordFault f s.draw.1 s.draw.2.draw.1 := by simp [State.dataAbort]
  refine ⟨⟨he.link, he.regs, he.saved, he.spsrs, he.mode, he.irqMask, he.fiqMask, he.rest, he.vector⟩, ?_, ?_⟩
  · refine ⟨by rw [hcp]; rfl, by rw [hcp]; rfl, by rw [hcp]; rfl, ?_, ?_, ?_⟩
    · rw [hcp]
      cases hf : f.status <;> simp [Cp15.recordFault, hf, FaultStatus.code, FaultStatus.codes]
      exact alignment_codes _
    · intro d hd; rw [hcp]; simp [Cp15.recordFault, hd]
    · rw [hcp]
      cases hf : f.status <;> simp [Cp15.recordFault, hf, FaultStatus.isUnmapped]
  · intro a
    simp only [State.dataAbort, State.physByte_takeException]
    rfl

end Sys2Proof.Machine
end

