-- ==== Sys2Proof/Laws/Block.lean ====
section
/-! SUPPORT. Block transfers: the register list, the addresses, the reads of an LDM, the register writes, the writes of an
STM. -/

namespace Sys2Proof.Machine

/-- No two register numbers of one mode name the same register (rule R24). -/
theorem Mode.bank_inj {m : Mode} {n n' : RegNo} {p : PReg} (h : m.bank n = some p) (h' : m.bank n' = some p) :
    n = n' := by
  revert h h'; revert n n' p; cases m <;> decide

theorem blockAddresses_length (a : Word) (n : Nat) : (blockAddresses a n).length = n := by
  induction n generalizing a with
  | zero => rfl
  | succ n ih => simp [blockAddresses, ih]

theorem blockAddresses_get (a : Word) (n k : Nat) (h : k < n) :
    (blockAddresses a n)[k]? = some (a + BitVec.ofNat 32 (4 * k)) := by
  induction n generalizing a k with
  | zero => omega
  | succ n ih =>
    cases k with
    | zero => simp [blockAddresses]
    | succ k =>
      simp only [blockAddresses, List.getElem?_cons_succ]
      rw [ih _ _ (by omega)]
      congr 1
      apply BitVec.eq_of_toNat_eq
      simp
      omega

theorem listRegisters_sorted (list : BitVec 16) : (listRegisters list).Pairwise fun a b => a.toNat < b.toNat := by
  unfold listRegisters
  apply List.Pairwise.filter
  decide

theorem listRegisters_nodup (list : BitVec 16) : (listRegisters list).Nodup := by
  refine (listRegisters_sorted list).imp ?_
  intro a b h e
  subst e
  omega

theorem mem_allRegisters (r : RegNo) :
    r ∈ [0#4, 1#4, 2#4, 3#4, 4#4, 5#4, 6#4, 7#4, 8#4, 9#4, 10#4, 11#4, 12#4, 13#4, 14#4, 15#4] := by
  revert r; decide

@[simp] theorem mem_listRegisters (list : BitVec 16) (r : RegNo) : r ∈ listRegisters list ↔ listed list r := by
  unfold listRegisters listed
  rw [List.mem_filter]
  exact ⟨fun h => h.2, fun h => ⟨mem_allRegisters r, h⟩⟩

theorem exists_listed {list : BitVec 16} (h : list ≠ 0#16) : ∃ r, listed list r := by
  by_contra hc
  apply h
  apply BitVec.eq_of_getLsbD_eq
  intro i hi
  have := fun h => hc ⟨BitVec.ofNat 4 i, h⟩
  unfold listed at this
  simp only [BitVec.toNat_ofNat, Nat.mod_eq_of_lt (show i < 2 ^ 4 by omega)] at this
  simpa using this

theorem index_of_sorted (l : List RegNo) (hs : l.Pairwise fun a b => a.toNat < b.toNat) (k : Nat) (r : RegNo)
    (h : l[k]? = some r) : (l.filter fun q => decide (q.toNat < r.toNat)).length = k := by
  induction l generalizing k with
  | nil => simp at h
  | cons x xs ih =>
    rw [List.pairwise_cons] at hs
    cases k with
    | zero =>
      simp at h
      subst h
      simp only [Nat.lt_irrefl, decide_false, Bool.false_eq_true, not_false_eq_true, List.filter_cons_of_neg,
        List.length_eq_zero_iff, List.filter_eq_nil_iff, decide_eq_true_eq, not_lt]
      exact fun a ha => (hs.1 a ha).le
    | succ k =>
      simp at h
      have hx := hs.1 r (List.mem_of_getElem? h)
      simp only [hx, decide_true, List.filter_cons_of_pos, List.length_cons, Nat.add_right_cancel_iff]
      exact ih hs.2 k h

/-- The addresses of a block transfer, register by register (rule R341). -/
theorem listAddresses_eq (s : State) (md : Mode) (pre up : Bool) (rn : RegNo) (list : BitVec 16) :
    listAddresses s md pre up rn list = (listRegisters list).map (blockAddress s md pre up rn list) := by
  apply List.ext_getElem?
  intro k
  rw [List.getElem?_map]
  unfold listAddresses listCount
  by_cases h : k < (listRegisters list).length
  · rw [blockAddresses_get _ _ _ h, List.getElem?_eq_getElem h, Option.map_some]
    congr 1
    unfold blockAddress
    rw [index_of_sorted _ (listRegisters_sorted list) k _ (List.getElem?_eq_getElem h)]
  · rw [List.getElem?_eq_none (by rw [blockAddresses_length]; exact Nat.le_of_not_lt h),
      List.getElem?_eq_none (by omega)]
    rfl

/-- The reads of an LDM with the MMU off, from uncached plain memory: the words that stand there (rules R343, R344). -/
theorem readBlock_flat {cp : Cp15} {priv : Bool} (hm : cp.mmuOn = false) (as : List Word) (m : MemSys)
    (h : ∀ a ∈ as, m.cachedWord a = none ∧ m.asserts .read a = false ∧ m.isVolatile a = false ∧
      misaligned cp .word a = false) :
    ∃ m', readBlock cp priv as m = .done (as.map fun a => m.physWord (wordIndex a)) m' ∧ m.Reads m' := by
  induction as generalizing m with
  | nil => exact ⟨m, rfl, .refl m⟩
  | cons a as ih =>
    obtain ⟨h1, h2, h3, h4⟩ := h a (by simp)
    have hd := m.drainAll_reads
    have hp : ∀ x, m.drainAll.physWord x = m.physWord x := fun x => by simp [MemSys.physWord_eq, hd.phys]
    obtain ⟨m', e, hr⟩ := ih m.drainAll fun x hx => h x (by simp [hx])
    refine ⟨m', ?_, hd.trans hr⟩
    simp only [readBlock, readData_flat hm h1 h2 h3 h4, e, BlockRead.after, List.map_cons, hp]

/-- The reads of an LDM only read, however they end (rule R355). -/
theorem readBlock_reads (cp : Cp15) (priv : Bool) (as : List Word) (m : MemSys) :
    match readBlock cp priv as m with
    | .done ws m' => m.Reads m' ∧ ws.length = as.length
    | .aborted ws _ m' => m.Reads m' ∧ ws.length < as.length
    | .refuse _ => True := by
  induction as generalizing m with
  | nil => exact ⟨.refl m, rfl⟩
  | cons a as ih =>
    have hd := readData_onlyReads cp .word a priv m
    unfold readBlock
    cases e : readData cp .word a priv m with
    | refuse r => trivial
    | abort f m' => exact ⟨hd.abort e, by simp⟩
    | ok w m' =>
      have h := ih m'
      have hw := hd.ok e
      simp only
      revert h
      cases readBlock cp priv as m' with
      | refuse r => exact fun _ => trivial
      | aborted ws f m2 => exact fun h => ⟨hw.trans h.1, by simpa [BlockRead.after] using h.2⟩
      | done ws m2 => exact fun h => ⟨hw.trans h.1, by simpa [BlockRead.after] using h.2⟩

/-- The register writes of an LDM: each register of the list gets its word, every other is kept (rule R344). -/
theorem preg_writeRegisters (md : Mode) (rs : List RegNo) (ws : List Word) (s : State) (hn : rs.Nodup) (p : PReg) :
    (writeRegisters s md rs ws).preg p =
      match (rs.zip ws).find? fun x => md.bank x.1 == some p with
      | some x => x.2
      | none => s.preg p := by
  induction rs generalizing s ws with
  | nil => cases ws <;> rfl
  | cons r rs ih =>
    rw [List.nodup_cons] at hn
    cases ws with
    | nil => rfl
    | cons w ws =>
      simp only [writeRegisters, ih _ _ hn.2, List.zip_cons_cons, List.find?_cons]
      cases hb : (md.bank r == some p)
      · simp only [beq_eq_false_iff_ne, ne_eq] at hb
        cases (rs.zip ws).find? _ <;> simp [State.preg_write, hb]
      · simp only [beq_iff_eq] at hb
        have : ((rs.zip ws).find? fun x => md.bank x.1 == some p) = none := by
          rw [List.find?_eq_none]
          rintro ⟨x, y⟩ hx e
          simp only [beq_iff_eq] at e
          exact hn.1 (Mode.bank_inj hb e ▸ (List.of_mem_zip hx).1)
        simp [this, State.preg_write, hb]

/-- Loading every register of a list with the value `f` gives it. -/
theorem preg_writeRegisters_map (md : Mode) (rs : List RegNo) (f : RegNo → Word) (s : State) (hn : rs.Nodup)
    (p : PReg) :
    (∀ r ∈ rs, md.bank r = some p → (writeRegisters s md rs (rs.map f)).preg p = f r) ∧
      ((∀ r ∈ rs, md.bank r ≠ some p) → (writeRegisters s md rs (rs.map f)).preg p = s.preg p) := by
  rw [preg_writeRegisters md rs _ s hn p]
  have hz : rs.zip (rs.map f) = rs.map fun r => (r, f r) := by
    induction rs with
    | nil => rfl
    | cons r rs ih => simp [ih (List.nodup_cons.1 hn).2]
  rw [hz, List.find?_map]
  refine ⟨fun r hr hb => ?_, fun h => ?_⟩
  · cases e : rs.find? ((fun x : RegNo × Word => md.bank x.1 == some p) ∘ fun r => (r, f r)) with
    | none => exact absurd (by simp [hb]) (List.find?_eq_none.1 e r hr)
    | some r' =>
      have := List.find?_some e
      simp only [Function.comp_apply, beq_iff_eq] at this
      simp [Mode.bank_inj this hb]
  · have : rs.find? ((fun x : RegNo × Word => md.bank x.1 == some p) ∘ fun r => (r, f r)) = none := by
      rw [List.find?_eq_none]
      intro r hr e
      simp only [Function.comp_apply, beq_iff_eq] at e
      exact h r hr e
    rw [this]
    rfl

theorem preg_blockWriteBack (s0 s : State) (md : Mode) (up w : Bool) (rn : RegNo) (list : BitVec 16) (p : PReg) :
    (blockWriteBack s0 s md up w rn list).preg p =
      if w = true ∧ md.bank rn = some p then blockFinal up (s0.read md rn 8#32) list else s.preg p := by
  cases w <;> simp [blockWriteBack, State.preg_write]

/-- R15, if listed, is the last register (rule R345). -/
theorem getLastD_r15 {list : BitVec 16} (f : RegNo → Word) (h : listed list 15#4) :
    ((listRegisters list).map f).getLastD 0 = f 15#4 := by
  have e : listRegisters list =
      ([0#4, 1#4, 2#4, 3#4, 4#4, 5#4, 6#4, 7#4, 8#4, 9#4, 10#4, 11#4, 12#4, 13#4, 14#4].filter
        fun n => list.getLsbD n.toNat) ++ [15#4] := by
    unfold listRegisters
    rw [show [0#4, 1#4, 2#4, 3#4, 4#4, 5#4, 6#4, 7#4, 8#4, 9#4, 10#4, 11#4, 12#4, 13#4, 14#4, 15#4] =
      [0#4, 1#4, 2#4, 3#4, 4#4, 5#4, 6#4, 7#4, 8#4, 9#4, 10#4, 11#4, 12#4, 13#4, 14#4] ++ [15#4] from rfl,
      List.filter_append]
    congr 1
    have h' : list.getLsbD (15#4 : RegNo).toNat = true := h
    exact List.filter_eq_self.2 fun a ha => by rw [List.mem_singleton.1 ha]; exact h'
  rw [e]
  simp

/-- A store with the MMU off and no ABORT: made, exactly at its bytes (rules R92, R93, R101). -/
theorem memWrite_flat {cp : Cp15} {st : WriteStyle} {sz : Size} {va : Word} {m : MemSys} (v : Word) (priv : Bool)
    (hm : cp.mmuOn = false) (ha : m.asserts (if st = .locked then .lockedWrite else .write) va = false)
    (hal : misaligned cp sz va = false) :
    ∃ m', memWrite cp st sz va priv v m = .ok () m' ∧
      (∀ a, m'.physByte a = (storedByte sz cp.bigEndian va v a).getD (m.physByte a)) ∧
      m'.busAborts = m.busAborts := by
  have hr := m.cacheUpdate_reads va (sz.lanes cp.bigEndian va) (sz.busData v)
  simp only [memWrite, hal, translate_off hm, Access.andThen, Bool.false_eq_true, if_false, writeTranslated,
    Bool.and_false, Bool.false_and]
  have hk : (if (st == .locked) = true then BusKind.lockedWrite else .write) =
      if st = .locked then .lockedWrite else .write := by cases st <;> rfl
  rw [hk]
  rcases MemSys.unbufferedWrite_cases (m.cacheUpdate va (sz.lanes cp.bigEndian va) (sz.busData v))
      (if st = .locked then .lockedWrite else .write)
      (({ pa := va, cacheable := false, bufferable := false, mapped := none } : Translation).busFault va) va
      (sz.lanes cp.bigEndian va) (sz.busData v) with ⟨m', e, -, h2⟩ | ⟨m', -, h1, -⟩
  · have hw := (hr.wrote h2).reads (m'.refreshPipe_reads va va)
    rw [e]
    exact ⟨_, rfl, fun a => hw.stored rfl a, hw.aborts⟩
  · exfalso
    unfold MemSys.asserts at h1 ha
    rw [hr.aborts, ha] at h1
    cases h1

/-- One byte after a list of word stores: the last that reaches it, or what stood there. -/
def afterStores (be : Bool) : List (Word × Word) → (Nat → Byte) → Nat → Byte
  | [], f => f
  | (a, v) :: rest, f => afterStores be rest fun x => (storedByte .word be a v x).getD (f x)

/-- The writes of an STM with the MMU off and no ABORT (rule R347). -/
theorem writeBlock_flat {cp : Cp15} {priv : Bool} (hm : cp.mmuOn = false) (ts : List (Word × Word)) (st : WriteStyle)
    (hs : st ≠ .locked) (m : MemSys)
    (h : ∀ t ∈ ts, m.asserts .write t.1 = false ∧ misaligned cp .word t.1 = false) :
    ∃ m', writeBlock cp priv st ts m = .ok () m' ∧ ∀ a, m'.physByte a = afterStores cp.bigEndian ts m.physByte a := by
  induction ts generalizing m st with
  | nil => exact ⟨m, rfl, fun _ => rfl⟩
  | cons t ts ih =>
    obtain ⟨va, v⟩ := t
    obtain ⟨h1, h2⟩ := h (va, v) (by simp)
    obtain ⟨m1, e1, p1, b1⟩ := memWrite_flat (st := st) (sz := .word) v priv hm (by rw [if_neg hs]; exact h1) h2
    obtain ⟨m', e, p⟩ := ih .sequential (by decide) m1 fun x hx => by
      have := h x (by simp [hx])
      unfold MemSys.asserts at *
      rw [b1]
      exact this
    refine ⟨m', ?_, ?_⟩
    · unfold writeBlock
      rw [e1]
      exact e
    · intro a
      rw [p a, funext p1]
      rfl

/-- An STM, aborted or not, stores to the words of its transfers alone (rules R347, R354), with the MMU off. -/
theorem writeRest_frame (cp : Cp15) (priv : Bool) (f : MemFault) (hm : cp.mmuOn = false) (ts : List (Word × Word))
    (m : MemSys) :
    (writeRest cp priv f ts m).Leaves fun m' =>
      ∀ a, (∀ t ∈ ts, a / 4 ≠ wordIndex t.1) → m'.physByte a = m.physByte a := by
  induction ts generalizing m with
  | nil => exact fun _ _ => rfl
  | cons t ts ih =>
    obtain ⟨va, v⟩ := t
    have hd := m.drawBit_reads
    unfold writeRest
    split
    · have hst := memWrite_stored cp .sequential .word va priv v m.drawBit.2
      have step : ∀ m1, Stored cp .word va priv v m.drawBit.2 m1 →
          (writeRest cp priv f ts m1).Leaves fun m' =>
            ∀ a, (∀ t ∈ (va, v) :: ts, a / 4 ≠ wordIndex t.1) → m'.physByte a = m.physByte a := by
        intro m1 hs
        have := ih m1
        revert this
        have hk : ∀ a, (∀ t ∈ (va, v) :: ts, a / 4 ≠ wordIndex t.1) → m1.physByte a = m.physByte a := by
          intro a ha
          rw [← hd.phys]
          rcases hs with hs | ⟨tr, m2, e, hw⟩
          · exact hs.phys a
          · rw [translate_off hm] at e
            cases e
            rw [hw.phys, if_neg fun x => ha (va, v) (by simp) x.1]
        cases writeRest cp priv f ts m1 with
        | ok u m2 => exact fun h a ha => (h a fun t ht => ha t (by simp [ht])).trans (hk a ha)
        | abort g m2 => exact fun h a ha => (h a fun t ht => ha t (by simp [ht])).trans (hk a ha)
        | refuse r => exact fun _ => trivial
      cases e : memWrite cp .sequential .word va priv v m.drawBit.2 with
      | ok u m1 => exact step m1 (hst.ok e)
      | abort g m1 => exact step m1 (hst.abort e)
      | refuse r => trivial
    · have := ih m.drawBit.2
      revert this
      cases writeRest cp priv f ts m.drawBit.2 with
      | ok u m2 => exact fun h a ha => (h a fun t ht => ha t (by simp [ht])).trans (hd.phys a)
      | abort g m2 => exact fun h a ha => (h a fun t ht => ha t (by simp [ht])).trans (hd.phys a)
      | refuse r => exact fun _ => trivial

theorem writeBlock_frame (cp : Cp15) (priv : Bool) (hm : cp.mmuOn = false) (ts : List (Word × Word)) (st : WriteStyle)
    (m : MemSys) :
    (writeBlock cp priv st ts m).Leaves fun m' =>
      ∀ a, (∀ t ∈ ts, a / 4 ≠ wordIndex t.1) → m'.physByte a = m.physByte a := by
  induction ts generalizing m st with
  | nil => exact fun _ _ => rfl
  | cons t ts ih =>
    obtain ⟨va, v⟩ := t
    have hst := memWrite_stored cp st .word va priv v m
    have hk : ∀ m1, Stored cp .word va priv v m m1 → ∀ a, (∀ t ∈ (va, v) :: ts, a / 4 ≠ wordIndex t.1) →
        m1.physByte a = m.physByte a := by
      intro m1 hs a ha
      rcases hs with hs | ⟨tr, m2, e, hw⟩
      · exact hs.phys a
      · rw [translate_off hm] at e
        cases e
        rw [hw.phys, if_neg fun x => ha (va, v) (by simp) x.1]
    unfold writeBlock
    cases e : memWrite cp st .word va priv v m with
    | refuse r => trivial
    | abort f m1 =>
      have := writeRest_frame cp priv f hm ts m1
      revert this
      simp only
      cases writeRest cp priv f ts m1 with
      | ok u m2 => exact fun h a ha => (h a fun t ht => ha t (by simp [ht])).trans (hk m1 (hst.abort e) a ha)
      | abort g m2 => exact fun h a ha => (h a fun t ht => ha t (by simp [ht])).trans (hk m1 (hst.abort e) a ha)
      | refuse r => exact fun _ => trivial
    | ok u m1 =>
      have := ih .sequential m1
      revert this
      simp only
      cases writeBlock cp priv .sequential ts m1 with
      | ok u m2 => exact fun h a ha => (h a fun t ht => ha t (by simp [ht])).trans (hk m1 (hst.ok e) a ha)
      | abort g m2 => exact fun h a ha => (h a fun t ht => ha t (by simp [ht])).trans (hk m1 (hst.ok e) a ha)
      | refuse r => exact fun _ => trivial

end Sys2Proof.Machine
end

