-- ==== Sys2Proof/Laws/Flags.lean ====
section
/-! SUPPORT. The flags: replacing bits [31:28] of a PSR, the result and the flags of the sixteen operations. -/

namespace Sys2Proof.Machine

theorem withFlagBits_getLsbD (p : Word) (b : BitVec 4) (i : Nat) :
    (withFlagBits p b).getLsbD i = if i < 28 then p.getLsbD i else b.getLsbD (i - 28) := by
  change BitVec.getLsbD (w := 4 + 28) (b ++ p.extractLsb' 0 28) i = _
  rw [BitVec.getLsbD_append]
  split
  · rename_i h; simp [h]
  · rfl

@[simp] theorem withFlagBits_top (p : Word) (b : BitVec 4) : (withFlagBits p b).extractLsb' 28 4 = b := by
  ext i hi
  simp [BitVec.getElem_extractLsb', withFlagBits_getLsbD, hi]

@[simp] theorem withFlagBits_rest (p : Word) (b : BitVec 4) :
    (withFlagBits p b).extractLsb' 0 28 = p.extractLsb' 0 28 := by
  ext i hi
  simp [BitVec.getElem_extractLsb', withFlagBits_getLsbD, hi]

theorem Flags.bits_getLsbD (f : Flags) :
    f.bits.getLsbD 3 = f.n ∧ f.bits.getLsbD 2 = f.z ∧ f.bits.getLsbD 1 = f.c ∧ f.bits.getLsbD 0 = f.v := by
  obtain ⟨n, z, c, v⟩ := f
  revert n z c v
  decide

/-- The flags written are the flags read. -/
@[simp] theorem psrFlags_withFlags (p : Word) (f : Flags) : psrFlags (withFlags p f) = f := by
  obtain ⟨h3, h2, h1, h0⟩ := f.bits_getLsbD
  unfold psrFlags withFlags
  simp only [withFlagBits_getLsbD]
  exact Flags.mk.injEq .. ▸ ⟨h3, h2, h1, h0⟩

@[simp] theorem withFlags_rest (p : Word) (f : Flags) : (withFlags p f).extractLsb' 0 28 = p.extractLsb' 0 28 :=
  withFlagBits_rest p f.bits

theorem getLsbD_31_iff (a : Word) : a.getLsbD 31 = true ↔ a.toInt < 0 := by
  rw [show a.getLsbD 31 = a.msb from rfl, BitVec.msb_eq_toInt]
  simp

/-- The result of an operation is that of Table 4-1 (rule R184). -/
theorem DpOp.compute_value (op : DpOp) (a b : Word) (shc : Bool) (f : Flags) :
    (op.compute a b shc f).value = op.table a b f.c := by
  cases op <;> simp [DpOp.compute, DpOp.table, addWithCarry, logicalResult, unsignedSum]
  all_goals (cases f.c <;> apply BitVec.eq_of_toNat_eq <;> simp <;> omega)

theorem toInt_not (w : Word) : (~~~w).toInt = -1 - w.toInt := by
  rw [BitVec.toInt_not]
  have h := w.toInt_eq_toNat_cond
  have h1 := w.isLt
  rw [Int.bmod_def]
  norm_num at *
  split at h <;> split <;> omega

/-- The V flag of `AddWithCarry`: the exact sum does not fit (rule R251). -/
theorem addWithCarry_v {a b : Word} {c : Bool} {x : Int} (h : a.toInt + b.toInt + c.toNat = x) :
    (addWithCarry a b c).flags.v = true ↔ ¬ (-2 ^ 31 ≤ x ∧ x < 2 ^ 31) := by
  subst h
  have h1 := BitVec.toInt_lt (x := a)
  have h2 := BitVec.le_toInt a
  have h3 := BitVec.toInt_lt (x := b)
  have h4 := BitVec.le_toInt b
  have e : (BitVec.ofNat 32 (unsignedSum a b c)).toInt = (a.toInt + b.toInt + c.toNat).bmod (2 ^ 32) := by
    have : BitVec.ofNat 32 (unsignedSum a b c) = BitVec.ofInt 32 (a.toInt + b.toInt + c.toNat) := by
      rw [unsignedSum, BitVec.ofInt_add, BitVec.ofInt_add, BitVec.ofInt_toInt, BitVec.ofInt_toInt, BitVec.ofNat_add,
        BitVec.ofNat_add]
      simp
    rw [this, BitVec.toInt_ofInt]
  simp only [addWithCarry, signedSum, e, decide_eq_true_eq]
  have hc : (c.toNat : Int) = 0 ∨ (c.toNat : Int) = 1 := by cases c <;> simp
  rw [Int.bmod_def]
  norm_num at *
  constructor
  · intro h; split at h <;> omega
  · intro h; split <;> omega

/-- The flags of an operation are those of its class (rules R250, R251). -/
theorem DpOp.compute_flags (op : DpOp) (a b : Word) (shc : Bool) (f : Flags) :
    op.FlagsAre a b shc f (op.compute a b shc f).flags := by
  have nz : (op.compute a b shc f).flags.n = (op.compute a b shc f).value.getLsbD 31 ∧
      (op.compute a b shc f).flags.z = ((op.compute a b shc f).value == 0) := by cases op <;> exact ⟨rfl, rfl⟩
  refine ⟨?_, ?_, ?_⟩
  · rw [nz.1, DpOp.compute_value, getLsbD_31_iff]
  · rw [nz.2, DpOp.compute_value]; simp
  · have hu : ∀ w : Word, (~~~w).toNat = 2 ^ 32 - 1 - w.toNat := fun w => by simp
    have ha := a.isLt
    have hb := b.isLt
    cases op <;> simp only [DpOp.isLogical, if_true, Bool.false_eq_true, if_false] <;>
      first
      | exact ⟨rfl, rfl⟩
      | refine ⟨?_, ?_⟩
        · simp only [DpOp.compute, addWithCarry, decide_eq_true_eq]
          simp only [unsignedSum, DpOp.carry, hu, Bool.toNat_true, Bool.toNat_false]
          first | done | omega
        · simp only [DpOp.compute]
          refine addWithCarry_v ?_
          simp only [DpOp.exact, toInt_not, Bool.toNat_true, Bool.toNat_false]
          first | done | (push_cast; omega)

end Sys2Proof.Machine
end

