-- ==== Sys2Proof/Laws/PerInstr.lean ====
section
/-! SUPPORT. One lemma per instruction: the condition stands in bits [31:28] of the word (rule R181). -/

namespace Sys2Proof.Laws.CondField

set_option Elab.async false

/-- Bits [31:28] of the word of an instruction are its condition (rule R181). -/
def Statement (i : Instr) : Prop := field (encode i) 28 4 = i.cond.bits

/-- A field lies below the field above it. -/
theorem put_lt {n : Nat} (lo : Nat) (v : BitVec n) : put lo v + 2 ^ lo ≤ 2 ^ (lo + n) := by
  have h : v.toNat + 1 ≤ 2 ^ n := v.isLt
  have := Nat.mul_le_mul_right (2 ^ lo) h
  unfold put
  rw [Nat.pow_add, Nat.mul_comm (2 ^ lo)]
  rw [Nat.add_mul, Nat.one_mul] at this
  exact this

/-- The top field of a word whose other fields lie below bit 28. -/
theorem field_top (b : BitVec 4) (r : Nat) (h : r < 2 ^ 28) :
    field (BitVec.ofNat 32 (put 28 b + r)) 28 4 = b := by
  have hb := b.isLt
  apply BitVec.eq_of_toNat_eq
  simp only [field, put, BitVec.toNat_ofNat]
  omega

theorem andImm (c : Cond) (s : Bool) (rn : RegNo) (rd : RegNo) (rot : BitVec 4) (imm : BitVec 8) :
    Statement (.andImm c s rn rd rot imm) := by
  simp only [Statement, encode, Nat.add_assoc]
  exact field_top _ _ (by
    have h0 := put_lt 25 0b001#3
    have h1 := put_lt 21 0#4
    have h2 := put_lt 20 (BitVec.ofBool s)
    have h3 := put_lt 16 rn
    have h4 := put_lt 12 rd
    have h5 := put_lt 8 rot
    have h6 := put_lt 0 imm
    omega)

theorem andShImm (c : Cond) (s : Bool) (rn : RegNo) (rd : RegNo) (amt : BitVec 5) (ty : ShiftType) (rm : RegNo) :
    Statement (.andShImm c s rn rd amt ty rm) := by
  simp only [Statement, encode, Nat.add_assoc]
  exact field_top _ _ (by
    have h0 := put_lt 25 0b000#3
    have h1 := put_lt 21 0#4
    have h2 := put_lt 20 (BitVec.ofBool s)
    have h3 := put_lt 16 rn
    have h4 := put_lt 12 rd
    have h5 := put_lt 7 amt
    have h6 := put_lt 5 ty.bits
    have h7 := put_lt 4 0#1
    have h8 := put_lt 0 rm
    omega)

theorem andShReg (c : Cond) (s : Bool) (rn : RegNo) (rd : RegNo) (rs : RegNo) (ty : ShiftType) (rm : RegNo) :
    Statement (.andShReg c s rn rd rs ty rm) := by
  simp only [Statement, encode, Nat.add_assoc]
  exact field_top _ _ (by
    have h0 := put_lt 25 0b000#3
    have h1 := put_lt 21 0#4
    have h2 := put_lt 20 (BitVec.ofBool s)
    have h3 := put_lt 16 rn
    have h4 := put_lt 12 rd
    have h5 := put_lt 8 rs
    have h6 := put_lt 7 0#1
    have h7 := put_lt 5 ty.bits
    have h8 := put_lt 4 1#1
    have h9 := put_lt 0 rm
    omega)

theorem eorImm (c : Cond) (s : Bool) (rn : RegNo) (rd : RegNo) (rot : BitVec 4) (imm : BitVec 8) :
    Statement (.eorImm c s rn rd rot imm) := by
  simp only [Statement, encode, Nat.add_assoc]
  exact field_top _ _ (by
    have h0 := put_lt 25 0b001#3
    have h1 := put_lt 21 1#4
    have h2 := put_lt 20 (BitVec.ofBool s)
    have h3 := put_lt 16 rn
    have h4 := put_lt 12 rd
    have h5 := put_lt 8 rot
    have h6 := put_lt 0 imm
    omega)

theorem eorShImm (c : Cond) (s : Bool) (rn : RegNo) (rd : RegNo) (amt : BitVec 5) (ty : ShiftType) (rm : RegNo) :
    Statement (.eorShImm c s rn rd amt ty rm) := by
  simp only [Statement, encode, Nat.add_assoc]
  exact field_top _ _ (by
    have h0 := put_lt 25 0b000#3
    have h1 := put_lt 21 1#4
    have h2 := put_lt 20 (BitVec.ofBool s)
    have h3 := put_lt 16 rn
    have h4 := put_lt 12 rd
    have h5 := put_lt 7 amt
    have h6 := put_lt 5 ty.bits
    have h7 := put_lt 4 0#1
    have h8 := put_lt 0 rm
    omega)

theorem eorShReg (c : Cond) (s : Bool) (rn : RegNo) (rd : RegNo) (rs : RegNo) (ty : ShiftType) (rm : RegNo) :
    Statement (.eorShReg c s rn rd rs ty rm) := by
  simp only [Statement, encode, Nat.add_assoc]
  exact field_top _ _ (by
    have h0 := put_lt 25 0b000#3
    have h1 := put_lt 21 1#4
    have h2 := put_lt 20 (BitVec.ofBool s)
    have h3 := put_lt 16 rn
    have h4 := put_lt 12 rd
    have h5 := put_lt 8 rs
    have h6 := put_lt 7 0#1
    have h7 := put_lt 5 ty.bits
    have h8 := put_lt 4 1#1
    have h9 := put_lt 0 rm
    omega)

theorem subImm (c : Cond) (s : Bool) (rn : RegNo) (rd : RegNo) (rot : BitVec 4) (imm : BitVec 8) :
    Statement (.subImm c s rn rd rot imm) := by
  simp only [Statement, encode, Nat.add_assoc]
  exact field_top _ _ (by
    have h0 := put_lt 25 0b001#3
    have h1 := put_lt 21 2#4
    have h2 := put_lt 20 (BitVec.ofBool s)
    have h3 := put_lt 16 rn
    have h4 := put_lt 12 rd
    have h5 := put_lt 8 rot
    have h6 := put_lt 0 imm
    omega)

theorem subShImm (c : Cond) (s : Bool) (rn : RegNo) (rd : RegNo) (amt : BitVec 5) (ty : ShiftType) (rm : RegNo) :
    Statement (.subShImm c s rn rd amt ty rm) := by
  simp only [Statement, encode, Nat.add_assoc]
  exact field_top _ _ (by
    have h0 := put_lt 25 0b000#3
    have h1 := put_lt 21 2#4
    have h2 := put_lt 20 (BitVec.ofBool s)
    have h3 := put_lt 16 rn
    have h4 := put_lt 12 rd
    have h5 := put_lt 7 amt
    have h6 := put_lt 5 ty.bits
    have h7 := put_lt 4 0#1
    have h8 := put_lt 0 rm
    omega)

theorem subShReg (c : Cond) (s : Bool) (rn : RegNo) (rd : RegNo) (rs : RegNo) (ty : ShiftType) (rm : RegNo) :
    Statement (.subShReg c s rn rd rs ty rm) := by
  simp only [Statement, encode, Nat.add_assoc]
  exact field_top _ _ (by
    have h0 := put_lt 25 0b000#3
    have h1 := put_lt 21 2#4
    have h2 := put_lt 20 (BitVec.ofBool s)
    have h3 := put_lt 16 rn
    have h4 := put_lt 12 rd
    have h5 := put_lt 8 rs
    have h6 := put_lt 7 0#1
    have h7 := put_lt 5 ty.bits
    have h8 := put_lt 4 1#1
    have h9 := put_lt 0 rm
    omega)

theorem rsbImm (c : Cond) (s : Bool) (rn : RegNo) (rd : RegNo) (rot : BitVec 4) (imm : BitVec 8) :
    Statement (.rsbImm c s rn rd rot imm) := by
  simp only [Statement, encode, Nat.add_assoc]
  exact field_top _ _ (by
    have h0 := put_lt 25 0b001#3
    have h1 := put_lt 21 3#4
    have h2 := put_lt 20 (BitVec.ofBool s)
    have h3 := put_lt 16 rn
    have h4 := put_lt 12 rd
    have h5 := put_lt 8 rot
    have h6 := put_lt 0 imm
    omega)

theorem rsbShImm (c : Cond) (s : Bool) (rn : RegNo) (rd : RegNo) (amt : BitVec 5) (ty : ShiftType) (rm : RegNo) :
    Statement (.rsbShImm c s rn rd amt ty rm) := by
  simp only [Statement, encode, Nat.add_assoc]
  exact field_top _ _ (by
    have h0 := put_lt 25 0b000#3
    have h1 := put_lt 21 3#4
    have h2 := put_lt 20 (BitVec.ofBool s)
    have h3 := put_lt 16 rn
    have h4 := put_lt 12 rd
    have h5 := put_lt 7 amt
    have h6 := put_lt 5 ty.bits
    have h7 := put_lt 4 0#1
    have h8 := put_lt 0 rm
    omega)

theorem rsbShReg (c : Cond) (s : Bool) (rn : RegNo) (rd : RegNo) (rs : RegNo) (ty : ShiftType) (rm : RegNo) :
    Statement (.rsbShReg c s rn rd rs ty rm) := by
  simp only [Statement, encode, Nat.add_assoc]
  exact field_top _ _ (by
    have h0 := put_lt 25 0b000#3
    have h1 := put_lt 21 3#4
    have h2 := put_lt 20 (BitVec.ofBool s)
    have h3 := put_lt 16 rn
    have h4 := put_lt 12 rd
    have h5 := put_lt 8 rs
    have h6 := put_lt 7 0#1
    have h7 := put_lt 5 ty.bits
    have h8 := put_lt 4 1#1
    have h9 := put_lt 0 rm
    omega)

theorem addImm (c : Cond) (s : Bool) (rn : RegNo) (rd : RegNo) (rot : BitVec 4) (imm : BitVec 8) :
    Statement (.addImm c s rn rd rot imm) := by
  simp only [Statement, encode, Nat.add_assoc]
  exact field_top _ _ (by
    have h0 := put_lt 25 0b001#3
    have h1 := put_lt 21 4#4
    have h2 := put_lt 20 (BitVec.ofBool s)
    have h3 := put_lt 16 rn
    have h4 := put_lt 12 rd
    have h5 := put_lt 8 rot
    have h6 := put_lt 0 imm
    omega)

theorem addShImm (c : Cond) (s : Bool) (rn : RegNo) (rd : RegNo) (amt : BitVec 5) (ty : ShiftType) (rm : RegNo) :
    Statement (.addShImm c s rn rd amt ty rm) := by
  simp only [Statement, encode, Nat.add_assoc]
  exact field_top _ _ (by
    have h0 := put_lt 25 0b000#3
    have h1 := put_lt 21 4#4
    have h2 := put_lt 20 (BitVec.ofBool s)
    have h3 := put_lt 16 rn
    have h4 := put_lt 12 rd
    have h5 := put_lt 7 amt
    have h6 := put_lt 5 ty.bits
    have h7 := put_lt 4 0#1
    have h8 := put_lt 0 rm
    omega)

theorem addShReg (c : Cond) (s : Bool) (rn : RegNo) (rd : RegNo) (rs : RegNo) (ty : ShiftType) (rm : RegNo) :
    Statement (.addShReg c s rn rd rs ty rm) := by
  simp only [Statement, encode, Nat.add_assoc]
  exact field_top _ _ (by
    have h0 := put_lt 25 0b000#3
    have h1 := put_lt 21 4#4
    have h2 := put_lt 20 (BitVec.ofBool s)
    have h3 := put_lt 16 rn
    have h4 := put_lt 12 rd
    have h5 := put_lt 8 rs
    have h6 := put_lt 7 0#1
    have h7 := put_lt 5 ty.bits
    have h8 := put_lt 4 1#1
    have h9 := put_lt 0 rm
    omega)

theorem adcImm (c : Cond) (s : Bool) (rn : RegNo) (rd : RegNo) (rot : BitVec 4) (imm : BitVec 8) :
    Statement (.adcImm c s rn rd rot imm) := by
  simp only [Statement, encode, Nat.add_assoc]
  exact field_top _ _ (by
    have h0 := put_lt 25 0b001#3
    have h1 := put_lt 21 5#4
    have h2 := put_lt 20 (BitVec.ofBool s)
    have h3 := put_lt 16 rn
    have h4 := put_lt 12 rd
    have h5 := put_lt 8 rot
    have h6 := put_lt 0 imm
    omega)

theorem adcShImm (c : Cond) (s : Bool) (rn : RegNo) (rd : RegNo) (amt : BitVec 5) (ty : ShiftType) (rm : RegNo) :
    Statement (.adcShImm c s rn rd amt ty rm) := by
  simp only [Statement, encode, Nat.add_assoc]
  exact field_top _ _ (by
    have h0 := put_lt 25 0b000#3
    have h1 := put_lt 21 5#4
    have h2 := put_lt 20 (BitVec.ofBool s)
    have h3 := put_lt 16 rn
    have h4 := put_lt 12 rd
    have h5 := put_lt 7 amt
    have h6 := put_lt 5 ty.bits
    have h7 := put_lt 4 0#1
    have h8 := put_lt 0 rm
    omega)

theorem adcShReg (c : Cond) (s : Bool) (rn : RegNo) (rd : RegNo) (rs : RegNo) (ty : ShiftType) (rm : RegNo) :
    Statement (.adcShReg c s rn rd rs ty rm) := by
  simp only [Statement, encode, Nat.add_assoc]
  exact field_top _ _ (by
    have h0 := put_lt 25 0b000#3
    have h1 := put_lt 21 5#4
    have h2 := put_lt 20 (BitVec.ofBool s)
    have h3 := put_lt 16 rn
    have h4 := put_lt 12 rd
    have h5 := put_lt 8 rs
    have h6 := put_lt 7 0#1
    have h7 := put_lt 5 ty.bits
    have h8 := put_lt 4 1#1
    have h9 := put_lt 0 rm
    omega)

theorem sbcImm (c : Cond) (s : Bool) (rn : RegNo) (rd : RegNo) (rot : BitVec 4) (imm : BitVec 8) :
    Statement (.sbcImm c s rn rd rot imm) := by
  simp only [Statement, encode, Nat.add_assoc]
  exact field_top _ _ (by
    have h0 := put_lt 25 0b001#3
    have h1 := put_lt 21 6#4
    have h2 := put_lt 20 (BitVec.ofBool s)
    have h3 := put_lt 16 rn
    have h4 := put_lt 12 rd
    have h5 := put_lt 8 rot
    have h6 := put_lt 0 imm
    omega)

theorem sbcShImm (c : Cond) (s : Bool) (rn : RegNo) (rd : RegNo) (amt : BitVec 5) (ty : ShiftType) (rm : RegNo) :
    Statement (.sbcShImm c s rn rd amt ty rm) := by
  simp only [Statement, encode, Nat.add_assoc]
  exact field_top _ _ (by
    have h0 := put_lt 25 0b000#3
    have h1 := put_lt 21 6#4
    have h2 := put_lt 20 (BitVec.ofBool s)
    have h3 := put_lt 16 rn
    have h4 := put_lt 12 rd
    have h5 := put_lt 7 amt
    have h6 := put_lt 5 ty.bits
    have h7 := put_lt 4 0#1
    have h8 := put_lt 0 rm
    omega)

theorem sbcShReg (c : Cond) (s : Bool) (rn : RegNo) (rd : RegNo) (rs : RegNo) (ty : ShiftType) (rm : RegNo) :
    Statement (.sbcShReg c s rn rd rs ty rm) := by
  simp only [Statement, encode, Nat.add_assoc]
  exact field_top _ _ (by
    have h0 := put_lt 25 0b000#3
    have h1 := put_lt 21 6#4
    have h2 := put_lt 20 (BitVec.ofBool s)
    have h3 := put_lt 16 rn
    have h4 := put_lt 12 rd
    have h5 := put_lt 8 rs
    have h6 := put_lt 7 0#1
    have h7 := put_lt 5 ty.bits
    have h8 := put_lt 4 1#1
    have h9 := put_lt 0 rm
    omega)

theorem rscImm (c : Cond) (s : Bool) (rn : RegNo) (rd : RegNo) (rot : BitVec 4) (imm : BitVec 8) :
    Statement (.rscImm c s rn rd rot imm) := by
  simp only [Statement, encode, Nat.add_assoc]
  exact field_top _ _ (by
    have h0 := put_lt 25 0b001#3
    have h1 := put_lt 21 7#4
    have h2 := put_lt 20 (BitVec.ofBool s)
    have h3 := put_lt 16 rn
    have h4 := put_lt 12 rd
    have h5 := put_lt 8 rot
    have h6 := put_lt 0 imm
    omega)

theorem rscShImm (c : Cond) (s : Bool) (rn : RegNo) (rd : RegNo) (amt : BitVec 5) (ty : ShiftType) (rm : RegNo) :
    Statement (.rscShImm c s rn rd amt ty rm) := by
  simp only [Statement, encode, Nat.add_assoc]
  exact field_top _ _ (by
    have h0 := put_lt 25 0b000#3
    have h1 := put_lt 21 7#4
    have h2 := put_lt 20 (BitVec.ofBool s)
    have h3 := put_lt 16 rn
    have h4 := put_lt 12 rd
    have h5 := put_lt 7 amt
    have h6 := put_lt 5 ty.bits
    have h7 := put_lt 4 0#1
    have h8 := put_lt 0 rm
    omega)

theorem rscShReg (c : Cond) (s : Bool) (rn : RegNo) (rd : RegNo) (rs : RegNo) (ty : ShiftType) (rm : RegNo) :
    Statement (.rscShReg c s rn rd rs ty rm) := by
  simp only [Statement, encode, Nat.add_assoc]
  exact field_top _ _ (by
    have h0 := put_lt 25 0b000#3
    have h1 := put_lt 21 7#4
    have h2 := put_lt 20 (BitVec.ofBool s)
    have h3 := put_lt 16 rn
    have h4 := put_lt 12 rd
    have h5 := put_lt 8 rs
    have h6 := put_lt 7 0#1
    have h7 := put_lt 5 ty.bits
    have h8 := put_lt 4 1#1
    have h9 := put_lt 0 rm
    omega)

theorem tstImm (c : Cond) (rn : RegNo) (rd : RegNo) (rot : BitVec 4) (imm : BitVec 8) :
    Statement (.tstImm c rn rd rot imm) := by
  simp only [Statement, encode, Nat.add_assoc]
  exact field_top _ _ (by
    have h0 := put_lt 25 0b001#3
    have h1 := put_lt 21 8#4
    have h2 := put_lt 20 1#1
    have h3 := put_lt 16 rn
    have h4 := put_lt 12 rd
    have h5 := put_lt 8 rot
    have h6 := put_lt 0 imm
    omega)

theorem tstShImm (c : Cond) (rn : RegNo) (rd : RegNo) (amt : BitVec 5) (ty : ShiftType) (rm : RegNo) :
    Statement (.tstShImm c rn rd amt ty rm) := by
  simp only [Statement, encode, Nat.add_assoc]
  exact field_top _ _ (by
    have h0 := put_lt 25 0b000#3
    have h1 := put_lt 21 8#4
    have h2 := put_lt 20 1#1
    have h3 := put_lt 16 rn
    have h4 := put_lt 12 rd
    have h5 := put_lt 7 amt
    have h6 := put_lt 5 ty.bits
    have h7 := put_lt 4 0#1
    have h8 := put_lt 0 rm
    omega)

theorem tstShReg (c : Cond) (rn : RegNo) (rd : RegNo) (rs : RegNo) (ty : ShiftType) (rm : RegNo) :
    Statement (.tstShReg c rn rd rs ty rm) := by
  simp only [Statement, encode, Nat.add_assoc]
  exact field_top _ _ (by
    have h0 := put_lt 25 0b000#3
    have h1 := put_lt 21 8#4
    have h2 := put_lt 20 1#1
    have h3 := put_lt 16 rn
    have h4 := put_lt 12 rd
    have h5 := put_lt 8 rs
    have h6 := put_lt 7 0#1
    have h7 := put_lt 5 ty.bits
    have h8 := put_lt 4 1#1
    have h9 := put_lt 0 rm
    omega)

theorem teqImm (c : Cond) (rn : RegNo) (rd : RegNo) (rot : BitVec 4) (imm : BitVec 8) :
    Statement (.teqImm c rn rd rot imm) := by
  simp only [Statement, encode, Nat.add_assoc]
  exact field_top _ _ (by
    have h0 := put_lt 25 0b001#3
    have h1 := put_lt 21 9#4
    have h2 := put_lt 20 1#1
    have h3 := put_lt 16 rn
    have h4 := put_lt 12 rd
    have h5 := put_lt 8 rot
    have h6 := put_lt 0 imm
    omega)

theorem teqShImm (c : Cond) (rn : RegNo) (rd : RegNo) (amt : BitVec 5) (ty : ShiftType) (rm : RegNo) :
    Statement (.teqShImm c rn rd amt ty rm) := by
  simp only [Statement, encode, Nat.add_assoc]
  exact field_top _ _ (by
    have h0 := put_lt 25 0b000#3
    have h1 := put_lt 21 9#4
    have h2 := put_lt 20 1#1
    have h3 := put_lt 16 rn
    have h4 := put_lt 12 rd
    have h5 := put_lt 7 amt
    have h6 := put_lt 5 ty.bits
    have h7 := put_lt 4 0#1
    have h8 := put_lt 0 rm
    omega)

theorem teqShReg (c : Cond) (rn : RegNo) (rd : RegNo) (rs : RegNo) (ty : ShiftType) (rm : RegNo) :
    Statement (.teqShReg c rn rd rs ty rm) := by
  simp only [Statement, encode, Nat.add_assoc]
  exact field_top _ _ (by
    have h0 := put_lt 25 0b000#3
    have h1 := put_lt 21 9#4
    have h2 := put_lt 20 1#1
    have h3 := put_lt 16 rn
    have h4 := put_lt 12 rd
    have h5 := put_lt 8 rs
    have h6 := put_lt 7 0#1
    have h7 := put_lt 5 ty.bits
    have h8 := put_lt 4 1#1
    have h9 := put_lt 0 rm
    omega)

theorem cmpImm (c : Cond) (rn : RegNo) (rd : RegNo) (rot : BitVec 4) (imm : BitVec 8) :
    Statement (.cmpImm c rn rd rot imm) := by
  simp only [Statement, encode, Nat.add_assoc]
  exact field_top _ _ (by
    have h0 := put_lt 25 0b001#3
    have h1 := put_lt 21 10#4
    have h2 := put_lt 20 1#1
    have h3 := put_lt 16 rn
    have h4 := put_lt 12 rd
    have h5 := put_lt 8 rot
    have h6 := put_lt 0 imm
    omega)

theorem cmpShImm (c : Cond) (rn : RegNo) (rd : RegNo) (amt : BitVec 5) (ty : ShiftType) (rm : RegNo) :
    Statement (.cmpShImm c rn rd amt ty rm) := by
  simp only [Statement, encode, Nat.add_assoc]
  exact field_top _ _ (by
    have h0 := put_lt 25 0b000#3
    have h1 := put_lt 21 10#4
    have h2 := put_lt 20 1#1
    have h3 := put_lt 16 rn
    have h4 := put_lt 12 rd
    have h5 := put_lt 7 amt
    have h6 := put_lt 5 ty.bits
    have h7 := put_lt 4 0#1
    have h8 := put_lt 0 rm
    omega)

theorem cmpShReg (c : Cond) (rn : RegNo) (rd : RegNo) (rs : RegNo) (ty : ShiftType) (rm : RegNo) :
    Statement (.cmpShReg c rn rd rs ty rm) := by
  simp only [Statement, encode, Nat.add_assoc]
  exact field_top _ _ (by
    have h0 := put_lt 25 0b000#3
    have h1 := put_lt 21 10#4
    have h2 := put_lt 20 1#1
    have h3 := put_lt 16 rn
    have h4 := put_lt 12 rd
    have h5 := put_lt 8 rs
    have h6 := put_lt 7 0#1
    have h7 := put_lt 5 ty.bits
    have h8 := put_lt 4 1#1
    have h9 := put_lt 0 rm
    omega)

theorem cmnImm (c : Cond) (rn : RegNo) (rd : RegNo) (rot : BitVec 4) (imm : BitVec 8) :
    Statement (.cmnImm c rn rd rot imm) := by
  simp only [Statement, encode, Nat.add_assoc]
  exact field_top _ _ (by
    have h0 := put_lt 25 0b001#3
    have h1 := put_lt 21 11#4
    have h2 := put_lt 20 1#1
    have h3 := put_lt 16 rn
    have h4 := put_lt 12 rd
    have h5 := put_lt 8 rot
    have h6 := put_lt 0 imm
    omega)

theorem cmnShImm (c : Cond) (rn : RegNo) (rd : RegNo) (amt : BitVec 5) (ty : ShiftType) (rm : RegNo) :
    Statement (.cmnShImm c rn rd amt ty rm) := by
  simp only [Statement, encode, Nat.add_assoc]
  exact field_top _ _ (by
    have h0 := put_lt 25 0b000#3
    have h1 := put_lt 21 11#4
    have h2 := put_lt 20 1#1
    have h3 := put_lt 16 rn
    have h4 := put_lt 12 rd
    have h5 := put_lt 7 amt
    have h6 := put_lt 5 ty.bits
    have h7 := put_lt 4 0#1
    have h8 := put_lt 0 rm
    omega)

theorem cmnShReg (c : Cond) (rn : RegNo) (rd : RegNo) (rs : RegNo) (ty : ShiftType) (rm : RegNo) :
    Statement (.cmnShReg c rn rd rs ty rm) := by
  simp only [Statement, encode, Nat.add_assoc]
  exact field_top _ _ (by
    have h0 := put_lt 25 0b000#3
    have h1 := put_lt 21 11#4
    have h2 := put_lt 20 1#1
    have h3 := put_lt 16 rn
    have h4 := put_lt 12 rd
    have h5 := put_lt 8 rs
    have h6 := put_lt 7 0#1
    have h7 := put_lt 5 ty.bits
    have h8 := put_lt 4 1#1
    have h9 := put_lt 0 rm
    omega)

theorem orrImm (c : Cond) (s : Bool) (rn : RegNo) (rd : RegNo) (rot : BitVec 4) (imm : BitVec 8) :
    Statement (.orrImm c s rn rd rot imm) := by
  simp only [Statement, encode, Nat.add_assoc]
  exact field_top _ _ (by
    have h0 := put_lt 25 0b001#3
    have h1 := put_lt 21 12#4
    have h2 := put_lt 20 (BitVec.ofBool s)
    have h3 := put_lt 16 rn
    have h4 := put_lt 12 rd
    have h5 := put_lt 8 rot
    have h6 := put_lt 0 imm
    omega)

theorem orrShImm (c : Cond) (s : Bool) (rn : RegNo) (rd : RegNo) (amt : BitVec 5) (ty : ShiftType) (rm : RegNo) :
    Statement (.orrShImm c s rn rd amt ty rm) := by
  simp only [Statement, encode, Nat.add_assoc]
  exact field_top _ _ (by
    have h0 := put_lt 25 0b000#3
    have h1 := put_lt 21 12#4
    have h2 := put_lt 20 (BitVec.ofBool s)
    have h3 := put_lt 16 rn
    have h4 := put_lt 12 rd
    have h5 := put_lt 7 amt
    have h6 := put_lt 5 ty.bits
    have h7 := put_lt 4 0#1
    have h8 := put_lt 0 rm
    omega)

theorem orrShReg (c : Cond) (s : Bool) (rn : RegNo) (rd : RegNo) (rs : RegNo) (ty : ShiftType) (rm : RegNo) :
    Statement (.orrShReg c s rn rd rs ty rm) := by
  simp only [Statement, encode, Nat.add_assoc]
  exact field_top _ _ (by
    have h0 := put_lt 25 0b000#3
    have h1 := put_lt 21 12#4
    have h2 := put_lt 20 (BitVec.ofBool s)
    have h3 := put_lt 16 rn
    have h4 := put_lt 12 rd
    have h5 := put_lt 8 rs
    have h6 := put_lt 7 0#1
    have h7 := put_lt 5 ty.bits
    have h8 := put_lt 4 1#1
    have h9 := put_lt 0 rm
    omega)

theorem movImm (c : Cond) (s : Bool) (rn : RegNo) (rd : RegNo) (rot : BitVec 4) (imm : BitVec 8) :
    Statement (.movImm c s rn rd rot imm) := by
  simp only [Statement, encode, Nat.add_assoc]
  exact field_top _ _ (by
    have h0 := put_lt 25 0b001#3
    have h1 := put_lt 21 13#4
    have h2 := put_lt 20 (BitVec.ofBool s)
    have h3 := put_lt 16 rn
    have h4 := put_lt 12 rd
    have h5 := put_lt 8 rot
    have h6 := put_lt 0 imm
    omega)

theorem movShImm (c : Cond) (s : Bool) (rn : RegNo) (rd : RegNo) (amt : BitVec 5) (ty : ShiftType) (rm : RegNo) :
    Statement (.movShImm c s rn rd amt ty rm) := by
  simp only [Statement, encode, Nat.add_assoc]
  exact field_top _ _ (by
    have h0 := put_lt 25 0b000#3
    have h1 := put_lt 21 13#4
    have h2 := put_lt 20 (BitVec.ofBool s)
    have h3 := put_lt 16 rn
    have h4 := put_lt 12 rd
    have h5 := put_lt 7 amt
    have h6 := put_lt 5 ty.bits
    have h7 := put_lt 4 0#1
    have h8 := put_lt 0 rm
    omega)

theorem movShReg (c : Cond) (s : Bool) (rn : RegNo) (rd : RegNo) (rs : RegNo) (ty : ShiftType) (rm : RegNo) :
    Statement (.movShReg c s rn rd rs ty rm) := by
  simp only [Statement, encode, Nat.add_assoc]
  exact field_top _ _ (by
    have h0 := put_lt 25 0b000#3
    have h1 := put_lt 21 13#4
    have h2 := put_lt 20 (BitVec.ofBool s)
    have h3 := put_lt 16 rn
    have h4 := put_lt 12 rd
    have h5 := put_lt 8 rs
    have h6 := put_lt 7 0#1
    have h7 := put_lt 5 ty.bits
    have h8 := put_lt 4 1#1
    have h9 := put_lt 0 rm
    omega)

theorem bicImm (c : Cond) (s : Bool) (rn : RegNo) (rd : RegNo) (rot : BitVec 4) (imm : BitVec 8) :
    Statement (.bicImm c s rn rd rot imm) := by
  simp only [Statement, encode, Nat.add_assoc]
  exact field_top _ _ (by
    have h0 := put_lt 25 0b001#3
    have h1 := put_lt 21 14#4
    have h2 := put_lt 20 (BitVec.ofBool s)
    have h3 := put_lt 16 rn
    have h4 := put_lt 12 rd
    have h5 := put_lt 8 rot
    have h6 := put_lt 0 imm
    omega)

theorem bicShImm (c : Cond) (s : Bool) (rn : RegNo) (rd : RegNo) (amt : BitVec 5) (ty : ShiftType) (rm : RegNo) :
    Statement (.bicShImm c s rn rd amt ty rm) := by
  simp only [Statement, encode, Nat.add_assoc]
  exact field_top _ _ (by
    have h0 := put_lt 25 0b000#3
    have h1 := put_lt 21 14#4
    have h2 := put_lt 20 (BitVec.ofBool s)
    have h3 := put_lt 16 rn
    have h4 := put_lt 12 rd
    have h5 := put_lt 7 amt
    have h6 := put_lt 5 ty.bits
    have h7 := put_lt 4 0#1
    have h8 := put_lt 0 rm
    omega)

theorem bicShReg (c : Cond) (s : Bool) (rn : RegNo) (rd : RegNo) (rs : RegNo) (ty : ShiftType) (rm : RegNo) :
    Statement (.bicShReg c s rn rd rs ty rm) := by
  simp only [Statement, encode, Nat.add_assoc]
  exact field_top _ _ (by
    have h0 := put_lt 25 0b000#3
    have h1 := put_lt 21 14#4
    have h2 := put_lt 20 (BitVec.ofBool s)
    have h3 := put_lt 16 rn
    have h4 := put_lt 12 rd
    have h5 := put_lt 8 rs
    have h6 := put_lt 7 0#1
    have h7 := put_lt 5 ty.bits
    have h8 := put_lt 4 1#1
    have h9 := put_lt 0 rm
    omega)

theorem mvnImm (c : Cond) (s : Bool) (rn : RegNo) (rd : RegNo) (rot : BitVec 4) (imm : BitVec 8) :
    Statement (.mvnImm c s rn rd rot imm) := by
  simp only [Statement, encode, Nat.add_assoc]
  exact field_top _ _ (by
    have h0 := put_lt 25 0b001#3
    have h1 := put_lt 21 15#4
    have h2 := put_lt 20 (BitVec.ofBool s)
    have h3 := put_lt 16 rn
    have h4 := put_lt 12 rd
    have h5 := put_lt 8 rot
    have h6 := put_lt 0 imm
    omega)

theorem mvnShImm (c : Cond) (s : Bool) (rn : RegNo) (rd : RegNo) (amt : BitVec 5) (ty : ShiftType) (rm : RegNo) :
    Statement (.mvnShImm c s rn rd amt ty rm) := by
  simp only [Statement, encode, Nat.add_assoc]
  exact field_top _ _ (by
    have h0 := put_lt 25 0b000#3
    have h1 := put_lt 21 15#4
    have h2 := put_lt 20 (BitVec.ofBool s)
    have h3 := put_lt 16 rn
    have h4 := put_lt 12 rd
    have h5 := put_lt 7 amt
    have h6 := put_lt 5 ty.bits
    have h7 := put_lt 4 0#1
    have h8 := put_lt 0 rm
    omega)

theorem mvnShReg (c : Cond) (s : Bool) (rn : RegNo) (rd : RegNo) (rs : RegNo) (ty : ShiftType) (rm : RegNo) :
    Statement (.mvnShReg c s rn rd rs ty rm) := by
  simp only [Statement, encode, Nat.add_assoc]
  exact field_top _ _ (by
    have h0 := put_lt 25 0b000#3
    have h1 := put_lt 21 15#4
    have h2 := put_lt 20 (BitVec.ofBool s)
    have h3 := put_lt 16 rn
    have h4 := put_lt 12 rd
    have h5 := put_lt 8 rs
    have h6 := put_lt 7 0#1
    have h7 := put_lt 5 ty.bits
    have h8 := put_lt 4 1#1
    have h9 := put_lt 0 rm
    omega)

theorem mrs (c : Cond) (ps : PsrSel) (rd : RegNo) :
    Statement (.mrs c ps rd) := by
  simp only [Statement, encode, Nat.add_assoc]
  exact field_top _ _ (by
    have h0 := put_lt 23 0b00010#5
    have h1 := put_lt 22 ps.bit
    have h2 := put_lt 16 0b001111#6
    have h3 := put_lt 12 rd
    have h4 := put_lt 0 0#12
    omega)

theorem msrPsr (c : Cond) (pd : PsrSel) (rm : RegNo) :
    Statement (.msrPsr c pd rm) := by
  simp only [Statement, encode, Nat.add_assoc]
  exact field_top _ _ (by
    have h0 := put_lt 23 0b00010#5
    have h1 := put_lt 22 pd.bit
    have h2 := put_lt 12 0b1010011111#10
    have h3 := put_lt 4 0#8
    have h4 := put_lt 0 rm
    omega)

theorem msrFlagsReg (c : Cond) (pd : PsrSel) (rm : RegNo) :
    Statement (.msrFlagsReg c pd rm) := by
  simp only [Statement, encode, Nat.add_assoc]
  exact field_top _ _ (by
    have h0 := put_lt 23 0b00010#5
    have h1 := put_lt 22 pd.bit
    have h2 := put_lt 12 0b1010001111#10
    have h3 := put_lt 4 0#8
    have h4 := put_lt 0 rm
    omega)

theorem msrFlagsImm (c : Cond) (pd : PsrSel) (rot : BitVec 4) (imm : BitVec 8) :
    Statement (.msrFlagsImm c pd rot imm) := by
  simp only [Statement, encode, Nat.add_assoc]
  exact field_top _ _ (by
    have h0 := put_lt 23 0b00110#5
    have h1 := put_lt 22 pd.bit
    have h2 := put_lt 12 0b1010001111#10
    have h3 := put_lt 8 rot
    have h4 := put_lt 0 imm
    omega)

theorem mul (c : Cond) (s : Bool) (rd : RegNo) (rn : RegNo) (rs : RegNo) (rm : RegNo) :
    Statement (.mul c s rd rn rs rm) := by
  simp only [Statement, encode, Nat.add_assoc]
  exact field_top _ _ (by
    have h0 := put_lt 22 0#6
    have h1 := put_lt 21 0#1
    have h2 := put_lt 20 (BitVec.ofBool s)
    have h3 := put_lt 16 rd
    have h4 := put_lt 12 rn
    have h5 := put_lt 8 rs
    have h6 := put_lt 4 0b1001#4
    have h7 := put_lt 0 rm
    omega)

theorem mla (c : Cond) (s : Bool) (rd : RegNo) (rn : RegNo) (rs : RegNo) (rm : RegNo) :
    Statement (.mla c s rd rn rs rm) := by
  simp only [Statement, encode, Nat.add_assoc]
  exact field_top _ _ (by
    have h0 := put_lt 22 0#6
    have h1 := put_lt 21 1#1
    have h2 := put_lt 20 (BitVec.ofBool s)
    have h3 := put_lt 16 rd
    have h4 := put_lt 12 rn
    have h5 := put_lt 8 rs
    have h6 := put_lt 4 0b1001#4
    have h7 := put_lt 0 rm
    omega)

theorem swp (c : Cond) (rn : RegNo) (rd : RegNo) (rm : RegNo) (sbz : BitVec 4) :
    Statement (.swp c rn rd rm sbz) := by
  simp only [Statement, encode, Nat.add_assoc]
  exact field_top _ _ (by
    have h0 := put_lt 23 0b00010#5
    have h1 := put_lt 22 0#1
    have h2 := put_lt 20 0b00#2
    have h3 := put_lt 16 rn
    have h4 := put_lt 12 rd
    have h5 := put_lt 8 sbz
    have h6 := put_lt 4 0b1001#4
    have h7 := put_lt 0 rm
    omega)

theorem swpb (c : Cond) (rn : RegNo) (rd : RegNo) (rm : RegNo) (sbz : BitVec 4) :
    Statement (.swpb c rn rd rm sbz) := by
  simp only [Statement, encode, Nat.add_assoc]
  exact field_top _ _ (by
    have h0 := put_lt 23 0b00010#5
    have h1 := put_lt 22 1#1
    have h2 := put_lt 20 0b00#2
    have h3 := put_lt 16 rn
    have h4 := put_lt 12 rd
    have h5 := put_lt 8 sbz
    have h6 := put_lt 4 0b1001#4
    have h7 := put_lt 0 rm
    omega)

theorem ldrImmPre (c : Cond) (up : Bool) (w : Bool) (rn : RegNo) (rd : RegNo) (off : BitVec 12) :
    Statement (.ldrImmPre c up w rn rd off) := by
  simp only [Statement, encode, Nat.add_assoc]
  exact field_top _ _ (by
    have h0 := put_lt 25 0b010#3
    have h1 := put_lt 24 1#1
    have h2 := put_lt 23 (BitVec.ofBool up)
    have h3 := put_lt 22 0#1
    have h4 := put_lt 21 (BitVec.ofBool w)
    have h5 := put_lt 20 1#1
    have h6 := put_lt 16 rn
    have h7 := put_lt 12 rd
    have h8 := put_lt 0 off
    omega)

theorem ldrImmPost (c : Cond) (up : Bool) (rn : RegNo) (rd : RegNo) (off : BitVec 12) :
    Statement (.ldrImmPost c up rn rd off) := by
  simp only [Statement, encode, Nat.add_assoc]
  exact field_top _ _ (by
    have h0 := put_lt 25 0b010#3
    have h1 := put_lt 24 0#1
    have h2 := put_lt 23 (BitVec.ofBool up)
    have h3 := put_lt 22 0#1
    have h4 := put_lt 21 0#1
    have h5 := put_lt 20 1#1
    have h6 := put_lt 16 rn
    have h7 := put_lt 12 rd
    have h8 := put_lt 0 off
    omega)

theorem ldrRegPre (c : Cond) (up : Bool) (w : Bool) (rn : RegNo) (rd : RegNo) (amt : BitVec 5) (ty : ShiftType) (rm : RegNo) :
    Statement (.ldrRegPre c up w rn rd amt ty rm) := by
  simp only [Statement, encode, Nat.add_assoc]
  exact field_top _ _ (by
    have h0 := put_lt 25 0b011#3
    have h1 := put_lt 24 1#1
    have h2 := put_lt 23 (BitVec.ofBool up)
    have h3 := put_lt 22 0#1
    have h4 := put_lt 21 (BitVec.ofBool w)
    have h5 := put_lt 20 1#1
    have h6 := put_lt 16 rn
    have h7 := put_lt 12 rd
    have h8 := put_lt 7 amt
    have h9 := put_lt 5 ty.bits
    have h10 := put_lt 4 0#1
    have h11 := put_lt 0 rm
    omega)

theorem ldrRegPost (c : Cond) (up : Bool) (rn : RegNo) (rd : RegNo) (amt : BitVec 5) (ty : ShiftType) (rm : RegNo) :
    Statement (.ldrRegPost c up rn rd amt ty rm) := by
  simp only [Statement, encode, Nat.add_assoc]
  exact field_top _ _ (by
    have h0 := put_lt 25 0b011#3
    have h1 := put_lt 24 0#1
    have h2 := put_lt 23 (BitVec.ofBool up)
    have h3 := put_lt 22 0#1
    have h4 := put_lt 21 0#1
    have h5 := put_lt 20 1#1
    have h6 := put_lt 16 rn
    have h7 := put_lt 12 rd
    have h8 := put_lt 7 amt
    have h9 := put_lt 5 ty.bits
    have h10 := put_lt 4 0#1
    have h11 := put_lt 0 rm
    omega)

theorem ldrbImmPre (c : Cond) (up : Bool) (w : Bool) (rn : RegNo) (rd : RegNo) (off : BitVec 12) :
    Statement (.ldrbImmPre c up w rn rd off) := by
  simp only [Statement, encode, Nat.add_assoc]
  exact field_top _ _ (by
    have h0 := put_lt 25 0b010#3
    have h1 := put_lt 24 1#1
    have h2 := put_lt 23 (BitVec.ofBool up)
    have h3 := put_lt 22 1#1
    have h4 := put_lt 21 (BitVec.ofBool w)
    have h5 := put_lt 20 1#1
    have h6 := put_lt 16 rn
    have h7 := put_lt 12 rd
    have h8 := put_lt 0 off
    omega)

theorem ldrbImmPost (c : Cond) (up : Bool) (rn : RegNo) (rd : RegNo) (off : BitVec 12) :
    Statement (.ldrbImmPost c up rn rd off) := by
  simp only [Statement, encode, Nat.add_assoc]
  exact field_top _ _ (by
    have h0 := put_lt 25 0b010#3
    have h1 := put_lt 24 0#1
    have h2 := put_lt 23 (BitVec.ofBool up)
    have h3 := put_lt 22 1#1
    have h4 := put_lt 21 0#1
    have h5 := put_lt 20 1#1
    have h6 := put_lt 16 rn
    have h7 := put_lt 12 rd
    have h8 := put_lt 0 off
    omega)

theorem ldrbRegPre (c : Cond) (up : Bool) (w : Bool) (rn : RegNo) (rd : RegNo) (amt : BitVec 5) (ty : ShiftType) (rm : RegNo) :
    Statement (.ldrbRegPre c up w rn rd amt ty rm) := by
  simp only [Statement, encode, Nat.add_assoc]
  exact field_top _ _ (by
    have h0 := put_lt 25 0b011#3
    have h1 := put_lt 24 1#1
    have h2 := put_lt 23 (BitVec.ofBool up)
    have h3 := put_lt 22 1#1
    have h4 := put_lt 21 (BitVec.ofBool w)
    have h5 := put_lt 20 1#1
    have h6 := put_lt 16 rn
    have h7 := put_lt 12 rd
    have h8 := put_lt 7 amt
    have h9 := put_lt 5 ty.bits
    have h10 := put_lt 4 0#1
    have h11 := put_lt 0 rm
    omega)

theorem ldrbRegPost (c : Cond) (up : Bool) (rn : RegNo) (rd : RegNo) (amt : BitVec 5) (ty : ShiftType) (rm : RegNo) :
    Statement (.ldrbRegPost c up rn rd amt ty rm) := by
  simp only [Statement, encode, Nat.add_assoc]
  exact field_top _ _ (by
    have h0 := put_lt 25 0b011#3
    have h1 := put_lt 24 0#1
    have h2 := put_lt 23 (BitVec.ofBool up)
    have h3 := put_lt 22 1#1
    have h4 := put_lt 21 0#1
    have h5 := put_lt 20 1#1
    have h6 := put_lt 16 rn
    have h7 := put_lt 12 rd
    have h8 := put_lt 7 amt
    have h9 := put_lt 5 ty.bits
    have h10 := put_lt 4 0#1
    have h11 := put_lt 0 rm
    omega)

theorem strImmPre (c : Cond) (up : Bool) (w : Bool) (rn : RegNo) (rd : RegNo) (off : BitVec 12) :
    Statement (.strImmPre c up w rn rd off) := by
  simp only [Statement, encode, Nat.add_assoc]
  exact field_top _ _ (by
    have h0 := put_lt 25 0b010#3
    have h1 := put_lt 24 1#1
    have h2 := put_lt 23 (BitVec.ofBool up)
    have h3 := put_lt 22 0#1
    have h4 := put_lt 21 (BitVec.ofBool w)
    have h5 := put_lt 20 0#1
    have h6 := put_lt 16 rn
    have h7 := put_lt 12 rd
    have h8 := put_lt 0 off
    omega)

theorem strImmPost (c : Cond) (up : Bool) (rn : RegNo) (rd : RegNo) (off : BitVec 12) :
    Statement (.strImmPost c up rn rd off) := by
  simp only [Statement, encode, Nat.add_assoc]
  exact field_top _ _ (by
    have h0 := put_lt 25 0b010#3
    have h1 := put_lt 24 0#1
    have h2 := put_lt 23 (BitVec.ofBool up)
    have h3 := put_lt 22 0#1
    have h4 := put_lt 21 0#1
    have h5 := put_lt 20 0#1
    have h6 := put_lt 16 rn
    have h7 := put_lt 12 rd
    have h8 := put_lt 0 off
    omega)

theorem strRegPre (c : Cond) (up : Bool) (w : Bool) (rn : RegNo) (rd : RegNo) (amt : BitVec 5) (ty : ShiftType) (rm : RegNo) :
    Statement (.strRegPre c up w rn rd amt ty rm) := by
  simp only [Statement, encode, Nat.add_assoc]
  exact field_top _ _ (by
    have h0 := put_lt 25 0b011#3
    have h1 := put_lt 24 1#1
    have h2 := put_lt 23 (BitVec.ofBool up)
    have h3 := put_lt 22 0#1
    have h4 := put_lt 21 (BitVec.ofBool w)
    have h5 := put_lt 20 0#1
    have h6 := put_lt 16 rn
    have h7 := put_lt 12 rd
    have h8 := put_lt 7 amt
    have h9 := put_lt 5 ty.bits
    have h10 := put_lt 4 0#1
    have h11 := put_lt 0 rm
    omega)

theorem strRegPost (c : Cond) (up : Bool) (rn : RegNo) (rd : RegNo) (amt : BitVec 5) (ty : ShiftType) (rm : RegNo) :
    Statement (.strRegPost c up rn rd amt ty rm) := by
  simp only [Statement, encode, Nat.add_assoc]
  exact field_top _ _ (by
    have h0 := put_lt 25 0b011#3
    have h1 := put_lt 24 0#1
    have h2 := put_lt 23 (BitVec.ofBool up)
    have h3 := put_lt 22 0#1
    have h4 := put_lt 21 0#1
    have h5 := put_lt 20 0#1
    have h6 := put_lt 16 rn
    have h7 := put_lt 12 rd
    have h8 := put_lt 7 amt
    have h9 := put_lt 5 ty.bits
    have h10 := put_lt 4 0#1
    have h11 := put_lt 0 rm
    omega)

theorem strbImmPre (c : Cond) (up : Bool) (w : Bool) (rn : RegNo) (rd : RegNo) (off : BitVec 12) :
    Statement (.strbImmPre c up w rn rd off) := by
  simp only [Statement, encode, Nat.add_assoc]
  exact field_top _ _ (by
    have h0 := put_lt 25 0b010#3
    have h1 := put_lt 24 1#1
    have h2 := put_lt 23 (BitVec.ofBool up)
    have h3 := put_lt 22 1#1
    have h4 := put_lt 21 (BitVec.ofBool w)
    have h5 := put_lt 20 0#1
    have h6 := put_lt 16 rn
    have h7 := put_lt 12 rd
    have h8 := put_lt 0 off
    omega)

theorem strbImmPost (c : Cond) (up : Bool) (rn : RegNo) (rd : RegNo) (off : BitVec 12) :
    Statement (.strbImmPost c up rn rd off) := by
  simp only [Statement, encode, Nat.add_assoc]
  exact field_top _ _ (by
    have h0 := put_lt 25 0b010#3
    have h1 := put_lt 24 0#1
    have h2 := put_lt 23 (BitVec.ofBool up)
    have h3 := put_lt 22 1#1
    have h4 := put_lt 21 0#1
    have h5 := put_lt 20 0#1
    have h6 := put_lt 16 rn
    have h7 := put_lt 12 rd
    have h8 := put_lt 0 off
    omega)

theorem strbRegPre (c : Cond) (up : Bool) (w : Bool) (rn : RegNo) (rd : RegNo) (amt : BitVec 5) (ty : ShiftType) (rm : RegNo) :
    Statement (.strbRegPre c up w rn rd amt ty rm) := by
  simp only [Statement, encode, Nat.add_assoc]
  exact field_top _ _ (by
    have h0 := put_lt 25 0b011#3
    have h1 := put_lt 24 1#1
    have h2 := put_lt 23 (BitVec.ofBool up)
    have h3 := put_lt 22 1#1
    have h4 := put_lt 21 (BitVec.ofBool w)
    have h5 := put_lt 20 0#1
    have h6 := put_lt 16 rn
    have h7 := put_lt 12 rd
    have h8 := put_lt 7 amt
    have h9 := put_lt 5 ty.bits
    have h10 := put_lt 4 0#1
    have h11 := put_lt 0 rm
    omega)

theorem strbRegPost (c : Cond) (up : Bool) (rn : RegNo) (rd : RegNo) (amt : BitVec 5) (ty : ShiftType) (rm : RegNo) :
    Statement (.strbRegPost c up rn rd amt ty rm) := by
  simp only [Statement, encode, Nat.add_assoc]
  exact field_top _ _ (by
    have h0 := put_lt 25 0b011#3
    have h1 := put_lt 24 0#1
    have h2 := put_lt 23 (BitVec.ofBool up)
    have h3 := put_lt 22 1#1
    have h4 := put_lt 21 0#1
    have h5 := put_lt 20 0#1
    have h6 := put_lt 16 rn
    have h7 := put_lt 12 rd
    have h8 := put_lt 7 amt
    have h9 := put_lt 5 ty.bits
    have h10 := put_lt 4 0#1
    have h11 := put_lt 0 rm
    omega)

theorem ldrtImm (c : Cond) (up : Bool) (rn : RegNo) (rd : RegNo) (off : BitVec 12) :
    Statement (.ldrtImm c up rn rd off) := by
  simp only [Statement, encode, Nat.add_assoc]
  exact field_top _ _ (by
    have h0 := put_lt 25 0b010#3
    have h1 := put_lt 24 0#1
    have h2 := put_lt 23 (BitVec.ofBool up)
    have h3 := put_lt 22 0#1
    have h4 := put_lt 21 1#1
    have h5 := put_lt 20 1#1
    have h6 := put_lt 16 rn
    have h7 := put_lt 12 rd
    have h8 := put_lt 0 off
    omega)

theorem ldrtReg (c : Cond) (up : Bool) (rn : RegNo) (rd : RegNo) (amt : BitVec 5) (ty : ShiftType) (rm : RegNo) :
    Statement (.ldrtReg c up rn rd amt ty rm) := by
  simp only [Statement, encode, Nat.add_assoc]
  exact field_top _ _ (by
    have h0 := put_lt 25 0b011#3
    have h1 := put_lt 24 0#1
    have h2 := put_lt 23 (BitVec.ofBool up)
    have h3 := put_lt 22 0#1
    have h4 := put_lt 21 1#1
    have h5 := put_lt 20 1#1
    have h6 := put_lt 16 rn
    have h7 := put_lt 12 rd
    have h8 := put_lt 7 amt
    have h9 := put_lt 5 ty.bits
    have h10 := put_lt 4 0#1
    have h11 := put_lt 0 rm
    omega)

theorem ldrbtImm (c : Cond) (up : Bool) (rn : RegNo) (rd : RegNo) (off : BitVec 12) :
    Statement (.ldrbtImm c up rn rd off) := by
  simp only [Statement, encode, Nat.add_assoc]
  exact field_top _ _ (by
    have h0 := put_lt 25 0b010#3
    have h1 := put_lt 24 0#1
    have h2 := put_lt 23 (BitVec.ofBool up)
    have h3 := put_lt 22 1#1
    have h4 := put_lt 21 1#1
    have h5 := put_lt 20 1#1
    have h6 := put_lt 16 rn
    have h7 := put_lt 12 rd
    have h8 := put_lt 0 off
    omega)

theorem ldrbtReg (c : Cond) (up : Bool) (rn : RegNo) (rd : RegNo) (amt : BitVec 5) (ty : ShiftType) (rm : RegNo) :
    Statement (.ldrbtReg c up rn rd amt ty rm) := by
  simp only [Statement, encode, Nat.add_assoc]
  exact field_top _ _ (by
    have h0 := put_lt 25 0b011#3
    have h1 := put_lt 24 0#1
    have h2 := put_lt 23 (BitVec.ofBool up)
    have h3 := put_lt 22 1#1
    have h4 := put_lt 21 1#1
    have h5 := put_lt 20 1#1
    have h6 := put_lt 16 rn
    have h7 := put_lt 12 rd
    have h8 := put_lt 7 amt
    have h9 := put_lt 5 ty.bits
    have h10 := put_lt 4 0#1
    have h11 := put_lt 0 rm
    omega)

theorem strtImm (c : Cond) (up : Bool) (rn : RegNo) (rd : RegNo) (off : BitVec 12) :
    Statement (.strtImm c up rn rd off) := by
  simp only [Statement, encode, Nat.add_assoc]
  exact field_top _ _ (by
    have h0 := put_lt 25 0b010#3
    have h1 := put_lt 24 0#1
    have h2 := put_lt 23 (BitVec.ofBool up)
    have h3 := put_lt 22 0#1
    have h4 := put_lt 21 1#1
    have h5 := put_lt 20 0#1
    have h6 := put_lt 16 rn
    have h7 := put_lt 12 rd
    have h8 := put_lt 0 off
    omega)

theorem strtReg (c : Cond) (up : Bool) (rn : RegNo) (rd : RegNo) (amt : BitVec 5) (ty : ShiftType) (rm : RegNo) :
    Statement (.strtReg c up rn rd amt ty rm) := by
  simp only [Statement, encode, Nat.add_assoc]
  exact field_top _ _ (by
    have h0 := put_lt 25 0b011#3
    have h1 := put_lt 24 0#1
    have h2 := put_lt 23 (BitVec.ofBool up)
    have h3 := put_lt 22 0#1
    have h4 := put_lt 21 1#1
    have h5 := put_lt 20 0#1
    have h6 := put_lt 16 rn
    have h7 := put_lt 12 rd
    have h8 := put_lt 7 amt
    have h9 := put_lt 5 ty.bits
    have h10 := put_lt 4 0#1
    have h11 := put_lt 0 rm
    omega)

theorem strbtImm (c : Cond) (up : Bool) (rn : RegNo) (rd : RegNo) (off : BitVec 12) :
    Statement (.strbtImm c up rn rd off) := by
  simp only [Statement, encode, Nat.add_assoc]
  exact field_top _ _ (by
    have h0 := put_lt 25 0b010#3
    have h1 := put_lt 24 0#1
    have h2 := put_lt 23 (BitVec.ofBool up)
    have h3 := put_lt 22 1#1
    have h4 := put_lt 21 1#1
    have h5 := put_lt 20 0#1
    have h6 := put_lt 16 rn
    have h7 := put_lt 12 rd
    have h8 := put_lt 0 off
    omega)

theorem strbtReg (c : Cond) (up : Bool) (rn : RegNo) (rd : RegNo) (amt : BitVec 5) (ty : ShiftType) (rm : RegNo) :
    Statement (.strbtReg c up rn rd amt ty rm) := by
  simp only [Statement, encode, Nat.add_assoc]
  exact field_top _ _ (by
    have h0 := put_lt 25 0b011#3
    have h1 := put_lt 24 0#1
    have h2 := put_lt 23 (BitVec.ofBool up)
    have h3 := put_lt 22 1#1
    have h4 := put_lt 21 1#1
    have h5 := put_lt 20 0#1
    have h6 := put_lt 16 rn
    have h7 := put_lt 12 rd
    have h8 := put_lt 7 amt
    have h9 := put_lt 5 ty.bits
    have h10 := put_lt 4 0#1
    have h11 := put_lt 0 rm
    omega)

theorem ldm (c : Cond) (pre : Bool) (up : Bool) (w : Bool) (rn : RegNo) (list : BitVec 15) :
    Statement (.ldm c pre up w rn list) := by
  simp only [Statement, encode, Nat.add_assoc]
  exact field_top _ _ (by
    have h0 := put_lt 25 0b100#3
    have h1 := put_lt 24 (BitVec.ofBool pre)
    have h2 := put_lt 23 (BitVec.ofBool up)
    have h3 := put_lt 22 0#1
    have h4 := put_lt 21 (BitVec.ofBool w)
    have h5 := put_lt 20 1#1
    have h6 := put_lt 16 rn
    have h7 := put_lt 15 0#1
    have h8 := put_lt 0 list
    omega)

theorem ldmPc (c : Cond) (pre : Bool) (up : Bool) (w : Bool) (rn : RegNo) (list : BitVec 15) :
    Statement (.ldmPc c pre up w rn list) := by
  simp only [Statement, encode, Nat.add_assoc]
  exact field_top _ _ (by
    have h0 := put_lt 25 0b100#3
    have h1 := put_lt 24 (BitVec.ofBool pre)
    have h2 := put_lt 23 (BitVec.ofBool up)
    have h3 := put_lt 22 0#1
    have h4 := put_lt 21 (BitVec.ofBool w)
    have h5 := put_lt 20 1#1
    have h6 := put_lt 16 rn
    have h7 := put_lt 15 1#1
    have h8 := put_lt 0 list
    omega)

theorem ldmPcRestore (c : Cond) (pre : Bool) (up : Bool) (w : Bool) (rn : RegNo) (list : BitVec 15) :
    Statement (.ldmPcRestore c pre up w rn list) := by
  simp only [Statement, encode, Nat.add_assoc]
  exact field_top _ _ (by
    have h0 := put_lt 25 0b100#3
    have h1 := put_lt 24 (BitVec.ofBool pre)
    have h2 := put_lt 23 (BitVec.ofBool up)
    have h3 := put_lt 22 1#1
    have h4 := put_lt 21 (BitVec.ofBool w)
    have h5 := put_lt 20 1#1
    have h6 := put_lt 16 rn
    have h7 := put_lt 15 1#1
    have h8 := put_lt 0 list
    omega)

theorem ldmUser (c : Cond) (pre : Bool) (up : Bool) (w : Bool) (rn : RegNo) (list : BitVec 15) :
    Statement (.ldmUser c pre up w rn list) := by
  simp only [Statement, encode, Nat.add_assoc]
  exact field_top _ _ (by
    have h0 := put_lt 25 0b100#3
    have h1 := put_lt 24 (BitVec.ofBool pre)
    have h2 := put_lt 23 (BitVec.ofBool up)
    have h3 := put_lt 22 1#1
    have h4 := put_lt 21 (BitVec.ofBool w)
    have h5 := put_lt 20 1#1
    have h6 := put_lt 16 rn
    have h7 := put_lt 15 0#1
    have h8 := put_lt 0 list
    omega)

theorem stm (c : Cond) (pre : Bool) (up : Bool) (w : Bool) (rn : RegNo) (list : BitVec 16) :
    Statement (.stm c pre up w rn list) := by
  simp only [Statement, encode, Nat.add_assoc]
  exact field_top _ _ (by
    have h0 := put_lt 25 0b100#3
    have h1 := put_lt 24 (BitVec.ofBool pre)
    have h2 := put_lt 23 (BitVec.ofBool up)
    have h3 := put_lt 22 0#1
    have h4 := put_lt 21 (BitVec.ofBool w)
    have h5 := put_lt 20 0#1
    have h6 := put_lt 16 rn
    have h7 := put_lt 0 list
    omega)

theorem stmUser (c : Cond) (pre : Bool) (up : Bool) (w : Bool) (rn : RegNo) (list : BitVec 16) :
    Statement (.stmUser c pre up w rn list) := by
  simp only [Statement, encode, Nat.add_assoc]
  exact field_top _ _ (by
    have h0 := put_lt 25 0b100#3
    have h1 := put_lt 24 (BitVec.ofBool pre)
    have h2 := put_lt 23 (BitVec.ofBool up)
    have h3 := put_lt 22 1#1
    have h4 := put_lt 21 (BitVec.ofBool w)
    have h5 := put_lt 20 0#1
    have h6 := put_lt 16 rn
    have h7 := put_lt 0 list
    omega)

theorem b (c : Cond) (off : BitVec 24) :
    Statement (.b c off) := by
  simp only [Statement, encode, Nat.add_assoc]
  exact field_top _ _ (by
    have h0 := put_lt 25 0b101#3
    have h1 := put_lt 24 0#1
    have h2 := put_lt 0 off
    omega)

theorem bl (c : Cond) (off : BitVec 24) :
    Statement (.bl c off) := by
  simp only [Statement, encode, Nat.add_assoc]
  exact field_top _ _ (by
    have h0 := put_lt 25 0b101#3
    have h1 := put_lt 24 1#1
    have h2 := put_lt 0 off
    omega)

theorem ldc (c : Cond) (pre : Bool) (up : Bool) (n : Bool) (w : Bool) (rn : RegNo) (crd : BitVec 4) (cp : BitVec 4) (off : BitVec 8) :
    Statement (.ldc c pre up n w rn crd cp off) := by
  simp only [Statement, encode, Nat.add_assoc]
  exact field_top _ _ (by
    have h0 := put_lt 25 0b110#3
    have h1 := put_lt 24 (BitVec.ofBool pre)
    have h2 := put_lt 23 (BitVec.ofBool up)
    have h3 := put_lt 22 (BitVec.ofBool n)
    have h4 := put_lt 21 (BitVec.ofBool w)
    have h5 := put_lt 20 1#1
    have h6 := put_lt 16 rn
    have h7 := put_lt 12 crd
    have h8 := put_lt 8 cp
    have h9 := put_lt 0 off
    omega)

theorem stc (c : Cond) (pre : Bool) (up : Bool) (n : Bool) (w : Bool) (rn : RegNo) (crd : BitVec 4) (cp : BitVec 4) (off : BitVec 8) :
    Statement (.stc c pre up n w rn crd cp off) := by
  simp only [Statement, encode, Nat.add_assoc]
  exact field_top _ _ (by
    have h0 := put_lt 25 0b110#3
    have h1 := put_lt 24 (BitVec.ofBool pre)
    have h2 := put_lt 23 (BitVec.ofBool up)
    have h3 := put_lt 22 (BitVec.ofBool n)
    have h4 := put_lt 21 (BitVec.ofBool w)
    have h5 := put_lt 20 0#1
    have h6 := put_lt 16 rn
    have h7 := put_lt 12 crd
    have h8 := put_lt 8 cp
    have h9 := put_lt 0 off
    omega)

theorem cdp (c : Cond) (opc : BitVec 4) (crn : BitVec 4) (crd : BitVec 4) (cp : BitVec 4) (info : BitVec 3) (crm : BitVec 4) :
    Statement (.cdp c opc crn crd cp info crm) := by
  simp only [Statement, encode, Nat.add_assoc]
  exact field_top _ _ (by
    have h0 := put_lt 24 0b1110#4
    have h1 := put_lt 20 opc
    have h2 := put_lt 16 crn
    have h3 := put_lt 12 crd
    have h4 := put_lt 8 cp
    have h5 := put_lt 5 info
    have h6 := put_lt 4 0#1
    have h7 := put_lt 0 crm
    omega)

theorem mrc (c : Cond) (opc : BitVec 3) (crn : BitVec 4) (rd : RegNo) (cp : BitVec 4) (info : BitVec 3) (crm : BitVec 4) :
    Statement (.mrc c opc crn rd cp info crm) := by
  simp only [Statement, encode, Nat.add_assoc]
  exact field_top _ _ (by
    have h0 := put_lt 24 0b1110#4
    have h1 := put_lt 21 opc
    have h2 := put_lt 20 1#1
    have h3 := put_lt 16 crn
    have h4 := put_lt 12 rd
    have h5 := put_lt 8 cp
    have h6 := put_lt 5 info
    have h7 := put_lt 4 1#1
    have h8 := put_lt 0 crm
    omega)

theorem mcr (c : Cond) (opc : BitVec 3) (crn : BitVec 4) (rd : RegNo) (cp : BitVec 4) (info : BitVec 3) (crm : BitVec 4) :
    Statement (.mcr c opc crn rd cp info crm) := by
  simp only [Statement, encode, Nat.add_assoc]
  exact field_top _ _ (by
    have h0 := put_lt 24 0b1110#4
    have h1 := put_lt 21 opc
    have h2 := put_lt 20 0#1
    have h3 := put_lt 16 crn
    have h4 := put_lt 12 rd
    have h5 := put_lt 8 cp
    have h6 := put_lt 5 info
    have h7 := put_lt 4 1#1
    have h8 := put_lt 0 crm
    omega)

theorem mrcId (c : Cond) (opc : BitVec 3) (rd : RegNo) (info : BitVec 3) (crm : BitVec 4) :
    Statement (.mrcId c opc rd info crm) := by
  simp only [Statement, encode, Nat.add_assoc]
  exact field_top _ _ (by
    have h0 := put_lt 24 0b1110#4
    have h1 := put_lt 21 opc
    have h2 := put_lt 20 1#1
    have h3 := put_lt 16 0#4
    have h4 := put_lt 12 rd
    have h5 := put_lt 8 0b1111#4
    have h6 := put_lt 5 info
    have h7 := put_lt 4 1#1
    have h8 := put_lt 0 crm
    omega)

theorem mcrControl (c : Cond) (opc : BitVec 3) (rd : RegNo) (info : BitVec 3) (crm : BitVec 4) :
    Statement (.mcrControl c opc rd info crm) := by
  simp only [Statement, encode, Nat.add_assoc]
  exact field_top _ _ (by
    have h0 := put_lt 24 0b1110#4
    have h1 := put_lt 21 opc
    have h2 := put_lt 20 0#1
    have h3 := put_lt 16 1#4
    have h4 := put_lt 12 rd
    have h5 := put_lt 8 0b1111#4
    have h6 := put_lt 5 info
    have h7 := put_lt 4 1#1
    have h8 := put_lt 0 crm
    omega)

theorem mcrTtb (c : Cond) (opc : BitVec 3) (rd : RegNo) (info : BitVec 3) (crm : BitVec 4) :
    Statement (.mcrTtb c opc rd info crm) := by
  simp only [Statement, encode, Nat.add_assoc]
  exact field_top _ _ (by
    have h0 := put_lt 24 0b1110#4
    have h1 := put_lt 21 opc
    have h2 := put_lt 20 0#1
    have h3 := put_lt 16 2#4
    have h4 := put_lt 12 rd
    have h5 := put_lt 8 0b1111#4
    have h6 := put_lt 5 info
    have h7 := put_lt 4 1#1
    have h8 := put_lt 0 crm
    omega)

theorem mcrDac (c : Cond) (opc : BitVec 3) (rd : RegNo) (info : BitVec 3) (crm : BitVec 4) :
    Statement (.mcrDac c opc rd info crm) := by
  simp only [Statement, encode, Nat.add_assoc]
  exact field_top _ _ (by
    have h0 := put_lt 24 0b1110#4
    have h1 := put_lt 21 opc
    have h2 := put_lt 20 0#1
    have h3 := put_lt 16 3#4
    have h4 := put_lt 12 rd
    have h5 := put_lt 8 0b1111#4
    have h6 := put_lt 5 info
    have h7 := put_lt 4 1#1
    have h8 := put_lt 0 crm
    omega)

theorem mrcFsr (c : Cond) (opc : BitVec 3) (rd : RegNo) (info : BitVec 3) (crm : BitVec 4) :
    Statement (.mrcFsr c opc rd info crm) := by
  simp only [Statement, encode, Nat.add_assoc]
  exact field_top _ _ (by
    have h0 := put_lt 24 0b1110#4
    have h1 := put_lt 21 opc
    have h2 := put_lt 20 1#1
    have h3 := put_lt 16 5#4
    have h4 := put_lt 12 rd
    have h5 := put_lt 8 0b1111#4
    have h6 := put_lt 5 info
    have h7 := put_lt 4 1#1
    have h8 := put_lt 0 crm
    omega)

theorem mcrFlushTlb (c : Cond) (opc : BitVec 3) (rd : RegNo) (info : BitVec 3) (crm : BitVec 4) :
    Statement (.mcrFlushTlb c opc rd info crm) := by
  simp only [Statement, encode, Nat.add_assoc]
  exact field_top _ _ (by
    have h0 := put_lt 24 0b1110#4
    have h1 := put_lt 21 opc
    have h2 := put_lt 20 0#1
    have h3 := put_lt 16 5#4
    have h4 := put_lt 12 rd
    have h5 := put_lt 8 0b1111#4
    have h6 := put_lt 5 info
    have h7 := put_lt 4 1#1
    have h8 := put_lt 0 crm
    omega)

theorem mrcFar (c : Cond) (opc : BitVec 3) (rd : RegNo) (info : BitVec 3) (crm : BitVec 4) :
    Statement (.mrcFar c opc rd info crm) := by
  simp only [Statement, encode, Nat.add_assoc]
  exact field_top _ _ (by
    have h0 := put_lt 24 0b1110#4
    have h1 := put_lt 21 opc
    have h2 := put_lt 20 1#1
    have h3 := put_lt 16 6#4
    have h4 := put_lt 12 rd
    have h5 := put_lt 8 0b1111#4
    have h6 := put_lt 5 info
    have h7 := put_lt 4 1#1
    have h8 := put_lt 0 crm
    omega)

theorem mcrPurgeTlb (c : Cond) (opc : BitVec 3) (rd : RegNo) (info : BitVec 3) (crm : BitVec 4) :
    Statement (.mcrPurgeTlb c opc rd info crm) := by
  simp only [Statement, encode, Nat.add_assoc]
  exact field_top _ _ (by
    have h0 := put_lt 24 0b1110#4
    have h1 := put_lt 21 opc
    have h2 := put_lt 20 0#1
    have h3 := put_lt 16 6#4
    have h4 := put_lt 12 rd
    have h5 := put_lt 8 0b1111#4
    have h6 := put_lt 5 info
    have h7 := put_lt 4 1#1
    have h8 := put_lt 0 crm
    omega)

theorem mcrFlushIdc (c : Cond) (opc : BitVec 3) (rd : RegNo) (info : BitVec 3) (crm : BitVec 4) :
    Statement (.mcrFlushIdc c opc rd info crm) := by
  simp only [Statement, encode, Nat.add_assoc]
  exact field_top _ _ (by
    have h0 := put_lt 24 0b1110#4
    have h1 := put_lt 21 opc
    have h2 := put_lt 20 0#1
    have h3 := put_lt 16 7#4
    have h4 := put_lt 12 rd
    have h5 := put_lt 8 0b1111#4
    have h6 := put_lt 5 info
    have h7 := put_lt 4 1#1
    have h8 := put_lt 0 crm
    omega)

theorem mcrC0 (c : Cond) (opc : BitVec 3) (rd : RegNo) (info : BitVec 3) (crm : BitVec 4) :
    Statement (.mcrC0 c opc rd info crm) := by
  simp only [Statement, encode, Nat.add_assoc]
  exact field_top _ _ (by
    have h0 := put_lt 24 0b1110#4
    have h1 := put_lt 21 opc
    have h2 := put_lt 20 0#1
    have h3 := put_lt 16 0#4
    have h4 := put_lt 12 rd
    have h5 := put_lt 8 0b1111#4
    have h6 := put_lt 5 info
    have h7 := put_lt 4 1#1
    have h8 := put_lt 0 crm
    omega)

theorem mrcC1 (c : Cond) (opc : BitVec 3) (rd : RegNo) (info : BitVec 3) (crm : BitVec 4) :
    Statement (.mrcC1 c opc rd info crm) := by
  simp only [Statement, encode, Nat.add_assoc]
  exact field_top _ _ (by
    have h0 := put_lt 24 0b1110#4
    have h1 := put_lt 21 opc
    have h2 := put_lt 20 1#1
    have h3 := put_lt 16 1#4
    have h4 := put_lt 12 rd
    have h5 := put_lt 8 0b1111#4
    have h6 := put_lt 5 info
    have h7 := put_lt 4 1#1
    have h8 := put_lt 0 crm
    omega)

theorem mrcC2 (c : Cond) (opc : BitVec 3) (rd : RegNo) (info : BitVec 3) (crm : BitVec 4) :
    Statement (.mrcC2 c opc rd info crm) := by
  simp only [Statement, encode, Nat.add_assoc]
  exact field_top _ _ (by
    have h0 := put_lt 24 0b1110#4
    have h1 := put_lt 21 opc
    have h2 := put_lt 20 1#1
    have h3 := put_lt 16 2#4
    have h4 := put_lt 12 rd
    have h5 := put_lt 8 0b1111#4
    have h6 := put_lt 5 info
    have h7 := put_lt 4 1#1
    have h8 := put_lt 0 crm
    omega)

theorem mrcC3 (c : Cond) (opc : BitVec 3) (rd : RegNo) (info : BitVec 3) (crm : BitVec 4) :
    Statement (.mrcC3 c opc rd info crm) := by
  simp only [Statement, encode, Nat.add_assoc]
  exact field_top _ _ (by
    have h0 := put_lt 24 0b1110#4
    have h1 := put_lt 21 opc
    have h2 := put_lt 20 1#1
    have h3 := put_lt 16 3#4
    have h4 := put_lt 12 rd
    have h5 := put_lt 8 0b1111#4
    have h6 := put_lt 5 info
    have h7 := put_lt 4 1#1
    have h8 := put_lt 0 crm
    omega)

theorem mrcC4 (c : Cond) (opc : BitVec 3) (rd : RegNo) (info : BitVec 3) (crm : BitVec 4) :
    Statement (.mrcC4 c opc rd info crm) := by
  simp only [Statement, encode, Nat.add_assoc]
  exact field_top _ _ (by
    have h0 := put_lt 24 0b1110#4
    have h1 := put_lt 21 opc
    have h2 := put_lt 20 1#1
    have h3 := put_lt 16 4#4
    have h4 := put_lt 12 rd
    have h5 := put_lt 8 0b1111#4
    have h6 := put_lt 5 info
    have h7 := put_lt 4 1#1
    have h8 := put_lt 0 crm
    omega)

theorem mcrC4 (c : Cond) (opc : BitVec 3) (rd : RegNo) (info : BitVec 3) (crm : BitVec 4) :
    Statement (.mcrC4 c opc rd info crm) := by
  simp only [Statement, encode, Nat.add_assoc]
  exact field_top _ _ (by
    have h0 := put_lt 24 0b1110#4
    have h1 := put_lt 21 opc
    have h2 := put_lt 20 0#1
    have h3 := put_lt 16 4#4
    have h4 := put_lt 12 rd
    have h5 := put_lt 8 0b1111#4
    have h6 := put_lt 5 info
    have h7 := put_lt 4 1#1
    have h8 := put_lt 0 crm
    omega)

theorem mrcC7 (c : Cond) (opc : BitVec 3) (rd : RegNo) (info : BitVec 3) (crm : BitVec 4) :
    Statement (.mrcC7 c opc rd info crm) := by
  simp only [Statement, encode, Nat.add_assoc]
  exact field_top _ _ (by
    have h0 := put_lt 24 0b1110#4
    have h1 := put_lt 21 opc
    have h2 := put_lt 20 1#1
    have h3 := put_lt 16 7#4
    have h4 := put_lt 12 rd
    have h5 := put_lt 8 0b1111#4
    have h6 := put_lt 5 info
    have h7 := put_lt 4 1#1
    have h8 := put_lt 0 crm
    omega)

theorem mrcHigh (c : Cond) (opc : BitVec 3) (crn : BitVec 3) (rd : RegNo) (info : BitVec 3) (crm : BitVec 4) :
    Statement (.mrcHigh c opc crn rd info crm) := by
  simp only [Statement, encode, Nat.add_assoc]
  exact field_top _ _ (by
    have h0 := put_lt 24 0b1110#4
    have h1 := put_lt 21 opc
    have h2 := put_lt 20 1#1
    have h3 := put_lt 19 1#1
    have h4 := put_lt 16 crn
    have h5 := put_lt 12 rd
    have h6 := put_lt 8 0b1111#4
    have h7 := put_lt 5 info
    have h8 := put_lt 4 1#1
    have h9 := put_lt 0 crm
    omega)

theorem mcrHigh (c : Cond) (opc : BitVec 3) (crn : BitVec 3) (rd : RegNo) (info : BitVec 3) (crm : BitVec 4) :
    Statement (.mcrHigh c opc crn rd info crm) := by
  simp only [Statement, encode, Nat.add_assoc]
  exact field_top _ _ (by
    have h0 := put_lt 24 0b1110#4
    have h1 := put_lt 21 opc
    have h2 := put_lt 20 0#1
    have h3 := put_lt 19 1#1
    have h4 := put_lt 16 crn
    have h5 := put_lt 12 rd
    have h6 := put_lt 8 0b1111#4
    have h7 := put_lt 5 info
    have h8 := put_lt 4 1#1
    have h9 := put_lt 0 crm
    omega)

theorem swi (c : Cond) (comment : BitVec 24) :
    Statement (.swi c comment) := by
  simp only [Statement, encode, Nat.add_assoc]
  exact field_top _ _ (by
    have h0 := put_lt 24 0b1111#4
    have h1 := put_lt 0 comment
    omega)

theorem undefined (c : Cond) (hi : BitVec 20) (lo : BitVec 4) :
    Statement (.undefined c hi lo) := by
  simp only [Statement, encode, Nat.add_assoc]
  exact field_top _ _ (by
    have h0 := put_lt 25 0b011#3
    have h1 := put_lt 5 hi
    have h2 := put_lt 4 1#1
    have h3 := put_lt 0 lo
    omega)

end Sys2Proof.Laws.CondField
end

