-- ==== Sys2Proof/Laws/Step.lean ====
section
/-! SUPPORT. What happens around an instruction: taking the inputs off the list, draining, filling the pipeline, Reset. -/

namespace Sys2Proof.Machine

/-- Taking the inputs off the list changes nothing else. -/
theorem State.popInputs_same (s : State) :
    s.popInputs.2.preg = s.preg ∧ s.popInputs.2.spsr = s.spsr ∧ s.popInputs.2.cpsr = s.cpsr ∧
      s.popInputs.2.pc = s.pc ∧ s.popInputs.2.cp15 = s.cp15 ∧ s.popInputs.2.sys = s.sys ∧
      s.popInputs.2.bankHazard = s.bankHazard := by
  unfold State.popInputs
  split <;> exact ⟨rfl, by funext m; cases m <;> rfl, rfl, rfl, rfl, rfl, rfl⟩

theorem fetchWord_reads (cp : Cp15) (va : Word) (priv : Bool) (m : MemSys) : m.Reads (fetchWord cp va priv m).2 := by
  unfold fetchWord
  have h := readBusWord_onlyReads cp va priv m
  split
  · rename_i e; exact h.ok e
  · rename_i e; exact h.abort e
  · exact .refl m

theorem fetchSlots_reads (cp : Cp15) (priv : Bool) (n : Nat) (va : Word) (m : MemSys) :
    m.Reads (fetchSlots cp priv n va m) := by
  induction n generalizing va m with
  | zero => exact .refl m
  | succ n ih => exact ((fetchWord_reads cp va priv m).trans (MemSys.withPipe_reads _ _)).trans (ih _ _)

/-- Prefetching only reads (rules R63, R95). -/
theorem MemSys.fillPipe_reads (m : MemSys) (cp : Cp15) (pc : Word) (priv : Bool) : m.Reads (m.fillPipe cp pc priv) :=
  (MemSys.withPipe_reads _ _).trans (fetchSlots_reads _ _ _ _ _)

/-- A step without Reset and without an interrupt: the head of the filled pipeline is executed, in a state that differs from
`s` in the inputs, the drained buffer and the pipeline alone (rules R14, R63). -/
theorem step_eq_executeHead {s : State} {md : Mode} (h1 : s.popInputs.1.reset = false) (h2 : s.Runs md)
    (h3 : pendingInterrupt s.popInputs.1 s = none) :
    step s = executeHead exec ((s.popInputs.2.withSys s.popInputs.2.sys.drainSome).fetched md) := by
  have hr : (s.popInputs.2.withSys s.popInputs.2.sys.drainSome).Runs md := by
    unfold State.popInputs; split <;> exact h2
  have hp : pendingInterrupt s.popInputs.1 (s.popInputs.2.withSys s.popInputs.2.sys.drainSome) = none := by
    rw [← h3]; unfold State.popInputs; split <;> rfl
  unfold step stepWith stepRunning
  rw [h1, if_neg (by decide), hr.gate]
  simp only [hp]

theorem State.fetched_same (s : State) (md : Mode) :
    let u := (s.popInputs.2.withSys s.popInputs.2.sys.drainSome).fetched md
    s.sys.Reads u.sys ∧ u.preg = s.preg ∧ u.spsr = s.spsr ∧ u.cpsr = s.cpsr ∧ u.pc = s.pc ∧ u.cp15 = s.cp15 := by
  obtain ⟨f1, f2, f3, f4, f5, f6, -⟩ := s.popInputs_same
  refine ⟨?_, f1, ?_, f3, f4, f5⟩
  · have h := (MemSys.drainSome_reads s.popInputs.2.sys).trans
      (MemSys.fillPipe_reads _ s.popInputs.2.cp15 s.popInputs.2.pc md.privileged)
    rw [f6] at h
    unfold State.fetched
    simp only [State.withSys_sys, State.withSys_cp15, State.withSys_pc, f6]
    exact h
  · funext m
    simp [State.fetched, f2]

/-- Draining touches neither the cache, the pipeline nor what the platform fixes. -/
theorem MemSys.drainSome_keeps (m : MemSys) :
    m.drainSome.cache = m.cache ∧ m.drainSome.pipe = m.pipe ∧ m.drainSome.busAborts = m.busAborts ∧
      m.drainSome.volatile = m.volatile := by
  unfold MemSys.drainSome
  split <;> exact ⟨rfl, rfl, rfl, rfl⟩

/-- With the MMU off a read of a bus word is the cached word or an external read. -/
theorem readBusWord_off {cp : Cp15} (h : cp.mmuOn = false) (va : Word) (priv : Bool) (m : MemSys) :
    readBusWord cp va priv m =
      readTranslated cp va { pa := va, cacheable := false, bufferable := false, mapped := none } m := by
  unfold readBusWord
  rw [translate_off h]
  rfl

/-- A fetch of plain memory with the MMU off brings the word at its address (rules R95, R96, R101). -/
theorem fetchWord_flat {cp : Cp15} {va : Word} {priv : Bool} {m : MemSys} (hm : cp.mmuOn = false)
    (hc : m.cachedWord va = none) (ha : m.asserts .read va = false) (hv : m.isVolatile va = false) :
    (fetchWord cp va priv m).1 = .word (m.physWord (va.toNat / 4)) va := by
  simp [fetchWord, readBusWord_off hm, readTranslated, hc, uncachedRead, MemSys.externalRead_word ha hv, wordIndex]

/-- A fetch with the MMU off leaves the pipeline to the caller. -/
theorem fetchWord_pipe {cp : Cp15} (hm : cp.mmuOn = false) (va : Word) (priv : Bool) (m : MemSys) :
    (fetchWord cp va priv m).2.pipe = m.pipe := by
  unfold fetchWord
  rw [readBusWord_off hm]
  unfold readTranslated uncachedRead MemSys.externalRead MemSys.busWord
  cases m.cachedWord va with
  | some w => rfl
  | none =>
    simp only [Bool.and_false, Bool.false_eq_true, if_false]
    cases m.asserts .read va <;> cases m.drainAll.isVolatile va <;> rfl

/-- The first fetch is the head of the pipeline, the fetches behind it leave it there. -/
theorem fetchSlots_head {cp : Cp15} (hm : cp.mmuOn = false) (priv : Bool) (n : Nat) (va : Word) (m : MemSys) (x : Slot)
    (h : m.pipe.head? = some x) : (fetchSlots cp priv n va m).pipe.head? = some x := by
  induction n generalizing va m with
  | zero => exact h
  | succ n ih => exact ih _ _ (by simp [fetchWord_pipe hm, List.head?_append, h])

theorem State.head_of {s : State} {x : Slot} (h : s.sys.pipe.head? = some x) : s.head = x.got := by
  unfold State.head
  cases hp : s.sys.pipe with
  | nil => simp [hp] at h
  | cons y ys => rw [hp] at h; cases h; rfl

/-- With nothing prefetched and a flat access to plain memory, the word at the head is the one at the pc (rule R63). -/
theorem State.fetched_head {s : State} {md : Mode} (hp : s.sys.pipe = []) (hf : s.FlatAt .read s.pc) :
    (s.fetched md).head = .word (s.sys.physWord (s.pc.toNat / 4)) s.pc := by
  obtain ⟨hm, hc, ha, hv⟩ := hf
  have e := fetchWord_flat (priv := md.privileged) (m := s.sys) hm hc ha hv
  have h1 : (s.fetched md).sys = fetchSlots s.cp15 md.privileged 3 s.pc s.sys := by
    have h0 : ({ s.sys with pipe := [] } : MemSys) = s.sys := by rw [← hp]
    have h2 : (s.fetched md).sys = fetchSlots s.cp15 md.privileged 3 (s.pc + 0#32) { s.sys with pipe := [] } := by
      simp [State.fetched, MemSys.fillPipe, hp, keepSlots]
    rw [h2, h0, BitVec.add_zero]
  rw [← e]
  exact State.head_of (x := ⟨s.pc, (fetchWord s.cp15 s.pc md.privileged s.sys).1⟩)
    (by rw [h1]; exact fetchSlots_head hm _ 2 _ _ _ (by simp [fetchWord_pipe hm, hp]))

theorem resetWrites_wbuf (ps : List Pending) (m : MemSys) (h : m.wbuf = []) : (resetWrites ps m).wbuf = [] := by
  induction ps generalizing m with
  | nil => exact h
  | cons p ps ih =>
    unfold resetWrites
    apply ih
    split <;> exact h

theorem resetWrites_wf (ps : List Pending) (m : MemSys) (h : Memory.wf m.mem = true) :
    Memory.wf (resetWrites ps m).mem = true := by
  induction ps generalizing m with
  | nil => exact h
  | cons p ps ih =>
    unfold resetWrites
    apply ih
    split
    · exact Memory.wf_writeLanes _ _ h (wordIndex_lt _)
    · exact h

/-- Reset keeps the canonical form of memory and empties the write buffer and the cache (rule R490). -/
theorem MemSys.resetEntry_inv {m : MemSys} (h : m.Inv) : m.resetEntry.Inv :=
  ⟨resetWrites_wf _ _ h.1, by
    show bufferHolds (resetWrites m.wbuf { m with wbuf := [] }).wbuf = true
    rw [resetWrites_wbuf _ _ rfl]
    rfl, List.Pairwise.nil⟩

end Sys2Proof.Machine
end

