-- ==== Sys2Proof/Laws/View.lean ====
section
/-! SUPPORT. The meaning behind each family: an instruction seen as a family (`viewOf`) runs the shared meaning of that
family. -/

namespace Sys2Proof.Machine

/-- What a coprocessor 15 source reads. -/
def Cp15Source.read : Cp15Source → Cp15Read
  | .id => readId
  | .fsr => readFsr
  | .far => readFar
  | .invalid => invalidRead

/-- What a coprocessor 15 target does. -/
def Cp15Target.write : Cp15Target → Cp15Write
  | .control => writeControl
  | .ttb => writeTtb
  | .dac => writeDac
  | .flushTlb => Sys2Proof.Machine.flushTlb
  | .purgeTlb => Sys2Proof.Machine.purgeTlb
  | .flushIdc => Sys2Proof.Machine.flushIdc
  | .invalid => invalidWrite

/-- The shared meaning of a family. -/
def View.meaning (v : View) (s : State) : Result :=
  match v with
  | .dp op c sb rn rd o => dataProcessing op c sb rn rd o s
  | .mrs c sel rd => moveFromPsr c sel rd s
  | .msr c sel rm => moveToPsr c sel rm s
  | .msrFlags c sel f => moveToFlags c sel f s
  | .mul c sb rd rs rm => multiply c sb rd rs rm s
  | .mla c sb rd rn rs rm => multiplyAccumulate c sb rd rn rs rm s
  | .swap sz c rn rd rm => Sys2Proof.Machine.swap sz c rn rd rm s
  | .load sz c ix up rn rd off => loadRegister sz c ix up rn rd off s
  | .store sz c ix up rn rd off => storeRegister sz c ix up rn rd off s
  | .ldm c pre up w rn list => loadBlock c pre up w rn list s
  | .ldmRestore c pre up w rn list => loadBlockRestore c pre up w rn list s
  | .ldmUser c pre up w rn list => loadBlockUser c pre up w rn list s
  | .stm c pre up w rn list => storeBlock c pre up w rn list s
  | .stmUser c pre up w rn list => storeBlockUser c pre up w rn list s
  | .branch c off => Sys2Proof.Machine.branch c off s
  | .branchLink c off => Sys2Proof.Machine.branchLink c off s
  | .cp15Read c zero rd src => conditionally c s fun md =>
      if !md.privileged then .next (s.takeException .undefined)
      else if !zero then .refused .cp15ReservedFields
      else .next (deliverCp15 (src.read s).2 md rd (src.read s).1).advance
  | .cp15Write c zero rd tgt => conditionally c s fun md =>
      if !md.privileged then .next (s.takeException .undefined)
      else if !zero then .refused .cp15ReservedFields
      else tgt.write (s.read md rd 12#32) s
  | .trap c => coprocessorTrap c s
  | .swi c => softwareInterrupt c s

/-- Every instruction runs the meaning of its family. -/
theorem exec_eq_meaning (i : Instr) (s : State) : exec i s = (viewOf i).meaning s := by
  cases i <;> rfl

/-- The condition of an instruction, from its family. -/
def View.cond : View → Cond
  | .dp _ c .. | .mrs c .. | .msr c .. | .msrFlags c .. | .mul c .. | .mla c .. | .swap _ c .. | .load _ c ..
  | .store _ c .. | .ldm c .. | .ldmRestore c .. | .ldmUser c .. | .stm c .. | .stmUser c .. | .branch c _
  | .branchLink c _ | .cp15Read c .. | .cp15Write c .. | .trap c | .swi c => c

theorem viewOf_cond (i : Instr) : (viewOf i).cond = i.cond := by cases i <;> rfl

theorem list_top (b : BitVec 1) (l : BitVec 15) : (b ++ l : BitVec 16).getLsbD 15 = b.getLsbD 0 := by
  rw [BitVec.getLsbD_append, if_neg (by decide)]

/-- The bounds the constructors put on a block transfer's list: R15 is not in the list of an LDM of the User bank, and is in
that of an LDM that restores the CPSR. -/
theorem viewOf_list (i : Instr) :
    (∀ c pre up w rn list, viewOf i = .ldmUser c pre up w rn list → list.getLsbD 15 = false) ∧
      ∀ c pre up w rn list, viewOf i = .ldmRestore c pre up w rn list → list.getLsbD 15 = true := by
  cases i <;> refine ⟨fun c pre up w rn list h => ?_, fun c pre up w rn list h => ?_⟩ <;>
    simp only [viewOf, reduceCtorEq, View.ldmUser.injEq, View.ldmRestore.injEq] at h
  · obtain ⟨-, -, -, -, -, rfl⟩ := h; exact list_top 1#1 _
  · obtain ⟨-, -, -, -, -, rfl⟩ := h; exact list_top 0#1 _

end Sys2Proof.Machine
end

