-- ==== Sys2Proof/Machine/Timing.lean ====
section
/-! DEFINITION. The cycle counts of Table 4-3 (rules R276, R306, R327, R357, R376, R412, R530), as a function of the
instruction and the state it starts in.  Timing is no part of State and no other definition depends on it (log
entry 44). -/

namespace Sys2Proof.Machine

/-- The incremental cost of an instruction in the units of Table 4-3 (rule R530). -/
structure Cycles where
  fetches : Nat
  reads : Nat
  writes : Nat
  internal : Nat
  deriving DecidableEq, Repr

/-- `m`, the cycles of the multiply algorithm for the value of Rs: the least m with s <= 2^(2m-1) - 1, at most 16
(rule R306). -/
def multiplyCycles (s : Nat) : Nat :=
  ((List.range 16).find? fun k => decide (s < 2 ^ (2 * k + 1))).getD 15 + 1

/-- A data processing instruction: 3 fetches if the PC is written, an internal cycle for a register-specified shift
(rule R276). -/
def dpCycles (writesPc regShift : Bool) : Cycles :=
  { fetches := if writesPc then 3 else 1, reads := 0, writes := 0, internal := if regShift then 1 else 0 }

/-- A multiply (rule R306). -/
def mulCycles (s : State) (md : Mode) (rs : RegNo) : Cycles :=
  { fetches := 1, reads := 0, writes := 0, internal := multiplyCycles (s.read md rs 8#32).toNat }

/-- A load of `n` words, to the PC or not (rules R327, R357). -/
def loadCycles (toPc : Bool) (n : Nat) : Cycles :=
  { fetches := if toPc then 3 else 1, reads := n, writes := 0, internal := 1 }

/-- A store of `n` words (rules R327, R357; conflict C4). -/
def storeCycles (n : Nat) : Cycles := { fetches := 1, reads := 0, writes := n, internal := 0 }

/-- A swap (rule R376). -/
def swapCycles : Cycles := { fetches := 1, reads := 1, writes := 1, internal := 1 }

/-- A branch, a SWI or a trap (rule R530). -/
def trapCycles : Cycles := { fetches := 3, reads := 0, writes := 0, internal := 0 }

/-- One fetch: MRS, MSR, and an instruction whose condition fails (rules R231, R290, R530). -/
def oneFetch : Cycles := { fetches := 1, reads := 0, writes := 0, internal := 0 }

/-- A coprocessor 15 transfer: 3 internal cycles, or the trap in User mode (rule R412). -/
def cp15Cycles (md : Mode) : Cycles :=
  if md.privileged then { fetches := 1, reads := 0, writes := 0, internal := 3 } else trapCycles

/-- The cost of an instruction whose condition holds (rule R530). -/
def executedCycles (i : Instr) (s : State) (md : Mode) : Cycles :=
  match i with
  | .andImm _ _ _ rd _ _ => dpCycles (rd == 15#4) false
  | .andShImm _ _ _ rd _ _ _ => dpCycles (rd == 15#4) false
  | .andShReg _ _ _ rd _ _ _ => dpCycles (rd == 15#4) true
  | .eorImm _ _ _ rd _ _ => dpCycles (rd == 15#4) false
  | .eorShImm _ _ _ rd _ _ _ => dpCycles (rd == 15#4) false
  | .eorShReg _ _ _ rd _ _ _ => dpCycles (rd == 15#4) true
  | .subImm _ _ _ rd _ _ => dpCycles (rd == 15#4) false
  | .subShImm _ _ _ rd _ _ _ => dpCycles (rd == 15#4) false
  | .subShReg _ _ _ rd _ _ _ => dpCycles (rd == 15#4) true
  | .rsbImm _ _ _ rd _ _ => dpCycles (rd == 15#4) false
  | .rsbShImm _ _ _ rd _ _ _ => dpCycles (rd == 15#4) false
  | .rsbShReg _ _ _ rd _ _ _ => dpCycles (rd == 15#4) true
  | .addImm _ _ _ rd _ _ => dpCycles (rd == 15#4) false
  | .addShImm _ _ _ rd _ _ _ => dpCycles (rd == 15#4) false
  | .addShReg _ _ _ rd _ _ _ => dpCycles (rd == 15#4) true
  | .adcImm _ _ _ rd _ _ => dpCycles (rd == 15#4) false
  | .adcShImm _ _ _ rd _ _ _ => dpCycles (rd == 15#4) false
  | .adcShReg _ _ _ rd _ _ _ => dpCycles (rd == 15#4) true
  | .sbcImm _ _ _ rd _ _ => dpCycles (rd == 15#4) false
  | .sbcShImm _ _ _ rd _ _ _ => dpCycles (rd == 15#4) false
  | .sbcShReg _ _ _ rd _ _ _ => dpCycles (rd == 15#4) true
  | .rscImm _ _ _ rd _ _ => dpCycles (rd == 15#4) false
  | .rscShImm _ _ _ rd _ _ _ => dpCycles (rd == 15#4) false
  | .rscShReg _ _ _ rd _ _ _ => dpCycles (rd == 15#4) true
  | .tstImm .. => dpCycles false false
  | .tstShImm .. => dpCycles false false
  | .tstShReg .. => dpCycles false true
  | .teqImm .. => dpCycles false false
  | .teqShImm .. => dpCycles false false
  | .teqShReg .. => dpCycles false true
  | .cmpImm .. => dpCycles false false
  | .cmpShImm .. => dpCycles false false
  | .cmpShReg .. => dpCycles false true
  | .cmnImm .. => dpCycles false false
  | .cmnShImm .. => dpCycles false false
  | .cmnShReg .. => dpCycles false true
  | .orrImm _ _ _ rd _ _ => dpCycles (rd == 15#4) false
  | .orrShImm _ _ _ rd _ _ _ => dpCycles (rd == 15#4) false
  | .orrShReg _ _ _ rd _ _ _ => dpCycles (rd == 15#4) true
  | .movImm _ _ _ rd _ _ => dpCycles (rd == 15#4) false
  | .movShImm _ _ _ rd _ _ _ => dpCycles (rd == 15#4) false
  | .movShReg _ _ _ rd _ _ _ => dpCycles (rd == 15#4) true
  | .bicImm _ _ _ rd _ _ => dpCycles (rd == 15#4) false
  | .bicShImm _ _ _ rd _ _ _ => dpCycles (rd == 15#4) false
  | .bicShReg _ _ _ rd _ _ _ => dpCycles (rd == 15#4) true
  | .mvnImm _ _ _ rd _ _ => dpCycles (rd == 15#4) false
  | .mvnShImm _ _ _ rd _ _ _ => dpCycles (rd == 15#4) false
  | .mvnShReg _ _ _ rd _ _ _ => dpCycles (rd == 15#4) true
  | .mrs .. => oneFetch
  | .msrPsr .. => oneFetch
  | .msrFlagsReg .. => oneFetch
  | .msrFlagsImm .. => oneFetch
  | .mul _ _ _ _ rs _ => mulCycles s md rs
  | .mla _ _ _ _ rs _ => mulCycles s md rs
  | .swp .. => swapCycles
  | .swpb .. => swapCycles
  | .ldrImmPre _ _ _ _ rd _ => loadCycles (rd == 15#4) 1
  | .ldrImmPost _ _ _ rd _ => loadCycles (rd == 15#4) 1
  | .ldrRegPre _ _ _ _ rd _ _ _ => loadCycles (rd == 15#4) 1
  | .ldrRegPost _ _ _ rd _ _ _ => loadCycles (rd == 15#4) 1
  | .ldrbImmPre _ _ _ _ rd _ => loadCycles (rd == 15#4) 1
  | .ldrbImmPost _ _ _ rd _ => loadCycles (rd == 15#4) 1
  | .ldrbRegPre _ _ _ _ rd _ _ _ => loadCycles (rd == 15#4) 1
  | .ldrbRegPost _ _ _ rd _ _ _ => loadCycles (rd == 15#4) 1
  | .strImmPre .. => storeCycles 1
  | .strImmPost .. => storeCycles 1
  | .strRegPre .. => storeCycles 1
  | .strRegPost .. => storeCycles 1
  | .strbImmPre .. => storeCycles 1
  | .strbImmPost .. => storeCycles 1
  | .strbRegPre .. => storeCycles 1
  | .strbRegPost .. => storeCycles 1
  | .ldrtImm _ _ _ rd _ => loadCycles (rd == 15#4) 1
  | .ldrtReg _ _ _ rd _ _ _ => loadCycles (rd == 15#4) 1
  | .ldrbtImm _ _ _ rd _ => loadCycles (rd == 15#4) 1
  | .ldrbtReg _ _ _ rd _ _ _ => loadCycles (rd == 15#4) 1
  | .strtImm .. => storeCycles 1
  | .strtReg .. => storeCycles 1
  | .strbtImm .. => storeCycles 1
  | .strbtReg .. => storeCycles 1
  | .ldm _ _ _ _ _ list => loadCycles false (listCount (0#1 ++ list))
  | .ldmPc _ _ _ _ _ list => loadCycles true (listCount (1#1 ++ list))
  | .ldmPcRestore _ _ _ _ _ list => loadCycles true (listCount (1#1 ++ list))
  | .ldmUser _ _ _ _ _ list => loadCycles false (listCount (0#1 ++ list))
  | .stm _ _ _ _ _ list => storeCycles (listCount list)
  | .stmUser _ _ _ _ _ list => storeCycles (listCount list)
  | .b .. => trapCycles
  | .bl .. => trapCycles
  | .ldc .. => trapCycles
  | .stc .. => trapCycles
  | .cdp .. => trapCycles
  | .mrc .. => trapCycles
  | .mcr .. => trapCycles
  | .mrcId .. => cp15Cycles md
  | .mcrControl .. => cp15Cycles md
  | .mcrTtb .. => cp15Cycles md
  | .mcrDac .. => cp15Cycles md
  | .mrcFsr .. => cp15Cycles md
  | .mcrFlushTlb .. => cp15Cycles md
  | .mrcFar .. => cp15Cycles md
  | .mcrPurgeTlb .. => cp15Cycles md
  | .mcrFlushIdc .. => cp15Cycles md
  | .mcrC0 .. => cp15Cycles md
  | .mrcC1 .. => cp15Cycles md
  | .mrcC2 .. => cp15Cycles md
  | .mrcC3 .. => cp15Cycles md
  | .mrcC4 .. => cp15Cycles md
  | .mcrC4 .. => cp15Cycles md
  | .mrcC7 .. => cp15Cycles md
  | .mrcHigh .. => trapCycles
  | .mcrHigh .. => trapCycles
  | .swi .. => trapCycles
  | .undefined .. => trapCycles

/-- The cost of an instruction: "Unexecuted instructions take one instruction fetch cycle" (rules R231, R530). -/
def cycles (i : Instr) (s : State) (md : Mode) : Cycles :=
  if conditionHolds i.cond s.flags then executedCycles i s md else oneFetch

end Sys2Proof.Machine
end

