-- ==== Sys2Proof/Tests/Slice0.lean ====
section
/-! SUPPORT. Tests: the well-formedness checks, the decoding of a word of every row of the opcode table, the worked examples of
the spec, one step each, and for every statement with hypotheses a state and operands that meet them. -/

namespace Sys2Proof.Tests

set_option Elab.async false

open Sys2Proof Sys2Proof.Machine

/-! ## Helpers -/

/-- The launch state at `pc` 0x8000 (the convention of file 95) with a CPSR, some registers and some words of memory. -/
def start (cpsr : Word) (rs : List (PReg × Word)) (ws : List (Nat × Word)) : State :=
  { rs.foldl (fun s x => s.setPreg x.1 x.2) (State.launch.setCpsr cpsr) with
    pc := 0x8000#32
    sys := { MemSys.reset with mem := ws.foldl (fun m x => Memory.writeLanes m (x.1 / 4) 15#4 x.2) [] } }

/-- The same with another Control value. -/
def withControl (s : State) (v : Word) : State := { s with cp15 := { s.cp15 with control := v } }

/-- The same with an SPSR of Supervisor mode. -/
def withSpsrSvc (s : State) (v : Word) : State := { s with spsrSvc := v }

/-- The same with the inputs of the coming boundary. -/
def withInputs (s : State) (fiq irq reset : Bool) : State := { s with inputs := [⟨fiq, irq, reset⟩] }

/-- The same where the platform aborts accesses of the kinds `ks` to the word at `pa`. -/
def withAbort (s : State) (pa : Nat) (ks : List BusKind) : State :=
  s.withSys { s.sys with busAborts := [⟨pa / 4, pa / 4, ks⟩] }

/-- The same with one TLB entry. -/
def withTlb (s : State) (e : TlbEntry) : State :=
  s.withSys { s.sys with tlb := s.sys.tlb.setIfInBounds 0 (some e) }

/-- The instruction of a word, executed. -/
def run (w : Word) (s : State) : Result :=
  match decode w with
  | .ok i => exec i s
  | .error e => .refused (.undefinedEncoding e)

/-- What is seen of a next state; nothing of a stop. -/
def seen (r : Result) (f : State → List Word) : List Word :=
  match r with
  | .next t => f t
  | .fault _ => []
  | .refused _ => []

/-- The four bytes of the word at `a`. -/
def wordAt (t : State) (a : Nat) : Word := Memory.readWord t.sys.mem (a / 4)

/-- The refusal of a stop. -/
def refusal (r : Result) : Option Refusal :=
  match r with
  | .next _ => none
  | .fault _ => none
  | .refused x => some x

/-! ## Well-formedness: each check refuses a term that breaks it -/

theorem test_wf_shift_amount : (Instr.andShReg .al false 1#4 2#4 15#4 .lsl 3#4).wellFormed = false ∧
    (Instr.andShReg .al false 1#4 2#4 14#4 .lsl 3#4).wellFormed = true := by decide

theorem test_wf_psr : (Instr.mrs .al .cpsr 15#4).wellFormed = false ∧ (Instr.msrPsr .al .cpsr 15#4).wellFormed = false ∧
    (Instr.msrFlagsReg .al .cpsr 15#4).wellFormed = false ∧ (Instr.mrs .al .cpsr 0#4).wellFormed = true := by decide

theorem test_wf_multiply : (Instr.mul .al false 15#4 0#4 1#4 2#4).wellFormed = false ∧
    (Instr.mul .al false 1#4 0#4 15#4 2#4).wellFormed = false ∧
    (Instr.mul .al false 1#4 0#4 2#4 15#4).wellFormed = false ∧
    (Instr.mla .al false 1#4 15#4 2#4 3#4).wellFormed = false ∧
    (Instr.mla .al false 1#4 4#4 2#4 3#4).wellFormed = true := by decide

theorem test_wf_swap : (Instr.swp .al 15#4 1#4 2#4).wellFormed = false ∧ (Instr.swp .al 1#4 15#4 2#4).wellFormed = false ∧
    (Instr.swpb .al 1#4 2#4 15#4).wellFormed = false ∧ (Instr.swp .al 1#4 2#4 3#4).wellFormed = true := by decide

theorem test_wf_write_back : (Instr.ldrImmPre .al true true 15#4 1#4 0#12).wellFormed = false ∧
    (Instr.ldrImmPre .al true false 15#4 1#4 0#12).wellFormed = true ∧
    (Instr.strImmPost .al true 15#4 1#4 0#12).wellFormed = false ∧
    (Instr.ldrtImm .al true 15#4 1#4 0#12).wellFormed = false := by decide

theorem test_wf_offset : (Instr.ldrRegPre .al true false 1#4 2#4 0#5 .lsl 15#4).wellFormed = false ∧
    (Instr.ldrRegPost .al true 1#4 2#4 0#5 .lsl 1#4).wellFormed = false ∧
    (Instr.strbRegPost .al true 1#4 2#4 0#5 .lsl 3#4).wellFormed = true := by decide

theorem test_wf_block : (Instr.ldm .al false true false 15#4 1#15).wellFormed = false ∧
    (Instr.ldm .al false true false 1#4 0#15).wellFormed = false ∧
    (Instr.ldmUser .al false true true 1#4 1#15).wellFormed = false ∧
    (Instr.stmUser .al false true true 1#4 1#16).wellFormed = false ∧
    (Instr.stm .al false true true 1#4 0#16).wellFormed = false ∧
    (Instr.ldmPc .al false true true 13#4 0#15).wellFormed = true := by decide

theorem test_wf_coprocessor : (Instr.mrc .al 0#3 0#4 0#4 15#4 0#3 0#4).encodable = false ∧
    (Instr.mcr .al 0#3 0#4 0#4 15#4 0#3 0#4).encodable = false ∧
    (Instr.mrc .al 0#3 0#4 0#4 14#4 0#3 0#4).encodable = true ∧
    (Instr.mrcId .al 1#3 0#4 0#3 0#4).wellFormed = false ∧ (Instr.mcrDac .al 0#3 0#4 0#3 1#4).wellFormed = false ∧
    (Instr.mcrTtb .al 0#3 0#4 1#3 0#4).wellFormed = false := by decide

/-! ## Decoding: a word of every row, written from the row's encoding (file 30) -/

theorem test_decode_dpImm :
    decode 0b10100010000001111011000100010011#32 = .ok (.andImm .ge false 7#4 0xb#4 1#4 0x13#8) ∧
    decode 0b11100010001100011110101000100000#32 = .ok (.eorImm .al true 1#4 0xe#4 0xa#4 0x20#8) ∧
    decode 0b11100010010110011110101100101111#32 = .ok (.subImm .al true 9#4 0xe#4 0xb#4 0x2f#8) ∧
    decode 0b11010010011110001010100001011101#32 = .ok (.rsbImm .le true 8#4 0xa#4 8#4 0x5d#8) ∧
    decode 0b10100010100000101001011100101011#32 = .ok (.addImm .ge false 2#4 9#4 7#4 0x2b#8) ∧
    decode 0b11100010101100101110001011110010#32 = .ok (.adcImm .al true 2#4 0xe#4 2#4 0xf2#8) ∧
    decode 0b11100010110110110110000111110001#32 = .ok (.sbcImm .al true 0xb#4 6#4 1#4 0xf1#8) ∧
    decode 0b11010010111000111000011110001101#32 = .ok (.rscImm .le false 3#4 8#4 7#4 0x8d#8) ∧
    decode 0b00000011000100110011010010101001#32 = .ok (.tstImm .eq 3#4 3#4 4#4 0xa9#8) ∧
    decode 0b10100011001110101010011011110100#32 = .ok (.teqImm .ge 0xa#4 0xa#4 6#4 0xf4#8) ∧
    decode 0b11100011010101110111011101100101#32 = .ok (.cmpImm .al 7#4 7#4 7#4 0x65#8) ∧
    decode 0b11100011011100010010000110010010#32 = .ok (.cmnImm .al 1#4 2#4 1#4 0x92#8) ∧
    decode 0b00010011100101101010011001111010#32 = .ok (.orrImm .ne true 6#4 0xa#4 6#4 0x7a#8) ∧
    decode 0b10100011101111101100001110000101#32 = .ok (.movImm .ge true 0xe#4 0xc#4 3#4 0x85#8) ∧
    decode 0b10100011110100110110110100111010#32 = .ok (.bicImm .ge true 3#4 6#4 0xd#4 0x3a#8) ∧
    decode 0b11010011111111000001000111001011#32 = .ok (.mvnImm .le true 0xc#4 1#4 1#4 0xcb#8) := by
  refine ⟨rfl, rfl, rfl, rfl, rfl, rfl, rfl, rfl, rfl, rfl, rfl, rfl, rfl, rfl, rfl, rfl⟩

theorem test_decode_dpShImm :
    decode 0b11100000000001101010000101100100#32 = .ok (.andShImm .al false 6#4 0xa#4 2#5 .ror 4#4) ∧
    decode 0b00010000001010101010011010100100#32 = .ok (.eorShImm .ne false 0xa#4 0xa#4 0xd#5 .lsr 4#4) ∧
    decode 0b00000000010001100010100101100010#32 = .ok (.subShImm .eq false 6#4 2#4 0x12#5 .ror 2#4) ∧
    decode 0b10100000011011010011101110100010#32 = .ok (.rsbShImm .ge false 0xd#4 3#4 0x17#5 .lsr 2#4) ∧
    decode 0b10100000100010000111000101100010#32 = .ok (.addShImm .ge false 8#4 7#4 2#5 .ror 2#4) ∧
    decode 0b10100000101111001011000110101100#32 = .ok (.adcShImm .ge true 0xc#4 0xb#4 3#5 .lsr 0xc#4) ∧
    decode 0b11010000110100111010001001000001#32 = .ok (.sbcShImm .le true 3#4 0xa#4 4#5 .asr 1#4) ∧
    decode 0b10100000111011100111111001100101#32 = .ok (.rscShImm .ge false 0xe#4 7#4 0x1c#5 .ror 5#4) ∧
    decode 0b00010001000100011000110111100011#32 = .ok (.tstShImm .ne 1#4 8#4 0x1b#5 .ror 3#4) ∧
    decode 0b00010001001111001110100011101011#32 = .ok (.teqShImm .ne 0xc#4 0xe#4 0x11#5 .ror 0xb#4) ∧
    decode 0b00000001010110001011011010100100#32 = .ok (.cmpShImm .eq 8#4 0xb#4 0xd#5 .lsr 4#4) ∧
    decode 0b00010001011110010010111111001010#32 = .ok (.cmnShImm .ne 9#4 2#4 0x1f#5 .asr 0xa#4) ∧
    decode 0b00000001100011101000011111001000#32 = .ok (.orrShImm .eq false 0xe#4 8#4 0xf#5 .asr 8#4) ∧
    decode 0b00000001101010010110001011101001#32 = .ok (.movShImm .eq false 9#4 6#4 5#5 .ror 9#4) ∧
    decode 0b11100001110110110100101000101101#32 = .ok (.bicShImm .al true 0xb#4 4#4 0x14#5 .lsr 0xd#4) ∧
    decode 0b10100001111101010100101111100110#32 = .ok (.mvnShImm .ge true 5#4 4#4 0x17#5 .ror 6#4) := by
  refine ⟨rfl, rfl, rfl, rfl, rfl, rfl, rfl, rfl, rfl, rfl, rfl, rfl, rfl, rfl, rfl, rfl⟩

theorem test_decode_dpShReg :
    decode 0b00000000000001110111001000110010#32 = .ok (.andShReg .eq false 7#4 7#4 2#4 .lsr 2#4) ∧
    decode 0b00000000001001010111001101110010#32 = .ok (.eorShReg .eq false 5#4 7#4 3#4 .ror 2#4) ∧
    decode 0b11100000010010100100100001111001#32 = .ok (.subShReg .al false 0xa#4 4#4 8#4 .ror 9#4) ∧
    decode 0b11100000011110011000011001111000#32 = .ok (.rsbShReg .al true 9#4 8#4 6#4 .ror 8#4) ∧
    decode 0b11100000100101101100011001111000#32 = .ok (.addShReg .al true 6#4 0xc#4 6#4 .ror 8#4) ∧
    decode 0b11100000101110111010101101010101#32 = .ok (.adcShReg .al true 0xb#4 0xa#4 0xb#4 .asr 5#4) ∧
    decode 0b00010000110100111100010001010111#32 = .ok (.sbcShReg .ne true 3#4 0xc#4 4#4 .asr 7#4) ∧
    decode 0b11100000111101101011011100110011#32 = .ok (.rscShReg .al true 6#4 0xb#4 7#4 .lsr 3#4) ∧
    decode 0b10100001000101010001001101011001#32 = .ok (.tstShReg .ge 5#4 1#4 3#4 .asr 9#4) ∧
    decode 0b11100001001111000001100001111101#32 = .ok (.teqShReg .al 0xc#4 1#4 8#4 .ror 0xd#4) ∧
    decode 0b00000001010101001000001100110110#32 = .ok (.cmpShReg .eq 4#4 8#4 3#4 .lsr 6#4) ∧
    decode 0b00000001011100101110010001110111#32 = .ok (.cmnShReg .eq 2#4 0xe#4 4#4 .ror 7#4) ∧
    decode 0b10100001100000110010110001011100#32 = .ok (.orrShReg .ge false 3#4 2#4 0xc#4 .asr 0xc#4) ∧
    decode 0b00000001101110111110001001111110#32 = .ok (.movShReg .eq true 0xb#4 0xe#4 2#4 .ror 0xe#4) ∧
    decode 0b00010001110111001101010000111001#32 = .ok (.bicShReg .ne true 0xc#4 0xd#4 4#4 .lsr 9#4) ∧
    decode 0b11010001111101100010010000110100#32 = .ok (.mvnShReg .le true 6#4 2#4 4#4 .lsr 4#4) := by
  refine ⟨rfl, rfl, rfl, rfl, rfl, rfl, rfl, rfl, rfl, rfl, rfl, rfl, rfl, rfl, rfl, rfl⟩

theorem test_decode_psr :
    decode 0b11010001000011110110000000000000#32 = .ok (.mrs .le .cpsr 6#4) ∧
    decode 0b00010001011010011111000000001010#32 = .ok (.msrPsr .ne .spsr 0xa#4) ∧
    decode 0b11100001001010001111000000001000#32 = .ok (.msrFlagsReg .al .cpsr 8#4) ∧
    decode 0b11100011011010001111110110100101#32 = .ok (.msrFlagsImm .al .spsr 0xd#4 0xa5#8) := by
  refine ⟨rfl, rfl, rfl, rfl⟩

theorem test_decode_multiplySwap :
    decode 0b00000000000001111101110010011101#32 = .ok (.mul .eq false 7#4 0xd#4 0xc#4 0xd#4) ∧
    decode 0b00010000001100110111110110011011#32 = .ok (.mla .ne true 3#4 7#4 0xd#4 0xb#4) ∧
    decode 0b10100001000000101101000010011100#32 = .ok (.swp .ge 2#4 0xd#4 0xc#4) ∧
    decode 0b11010001010010000111000010011100#32 = .ok (.swpb .le 8#4 7#4 0xc#4) := by
  refine ⟨rfl, rfl, rfl, rfl⟩

theorem test_decode_transferImm :
    decode 0b00000101000100110001001001101100#32 = .ok (.ldrImmPre .eq false false 3#4 1#4 0x26c#12) ∧
    decode 0b11100100100111011011001001010111#32 = .ok (.ldrImmPost .al true 0xd#4 0xb#4 0x257#12) ∧
    decode 0b00010101010101010100010010110000#32 = .ok (.ldrbImmPre .ne false false 5#4 4#4 0x4b0#12) ∧
    decode 0b11100100010111011010010100111000#32 = .ok (.ldrbImmPost .al false 0xd#4 0xa#4 0x538#12) ∧
    decode 0b11100101001011010011100110111101#32 = .ok (.strImmPre .al false true 0xd#4 3#4 0x9bd#12) ∧
    decode 0b00000100000000110011011110010100#32 = .ok (.strImmPost .eq false 3#4 3#4 0x794#12) ∧
    decode 0b00000101011010010001110000101001#32 = .ok (.strbImmPre .eq false true 9#4 1#4 0xc29#12) ∧
    decode 0b00000100110001101010111110010011#32 = .ok (.strbImmPost .eq true 6#4 0xa#4 0xf93#12) ∧
    decode 0b11010100001101111000010100001111#32 = .ok (.ldrtImm .le false 7#4 8#4 0x50f#12) ∧
    decode 0b00000100011111001011101010010001#32 = .ok (.ldrbtImm .eq false 0xc#4 0xb#4 0xa91#12) ∧
    decode 0b11100100001001111000001010011011#32 = .ok (.strtImm .al false 7#4 8#4 0x29b#12) ∧
    decode 0b10100100111001000110010100011001#32 = .ok (.strbtImm .ge true 4#4 6#4 0x519#12) := by
  refine ⟨rfl, rfl, rfl, rfl, rfl, rfl, rfl, rfl, rfl, rfl, rfl, rfl⟩

theorem test_decode_transferReg :
    decode 0b11100111101100111001100100100001#32 = .ok (.ldrRegPre .al true true 3#4 9#4 0x12#5 .lsr 1#4) ∧
    decode 0b00000110000110011100111100100111#32 = .ok (.ldrRegPost .eq false 9#4 0xc#4 0x1e#5 .lsr 7#4) ∧
    decode 0b10100111110100011100011001001011#32 = .ok (.ldrbRegPre .ge true false 1#4 0xc#4 0xc#5 .asr 0xb#4) ∧
    decode 0b11100110110111101001001011100011#32 = .ok (.ldrbRegPost .al true 0xe#4 9#4 5#5 .ror 3#4) ∧
    decode 0b11100111000001101011100011101001#32 = .ok (.strRegPre .al false false 6#4 0xb#4 0x11#5 .ror 9#4) ∧
    decode 0b11010110000010010001010000100101#32 = .ok (.strRegPost .le false 9#4 1#4 8#5 .lsr 5#4) ∧
    decode 0b11100111011010001001100101001001#32 = .ok (.strbRegPre .al false true 8#4 9#4 0x12#5 .asr 9#4) ∧
    decode 0b00010110110010010100110111000011#32 = .ok (.strbRegPost .ne true 9#4 4#4 0x1b#5 .asr 3#4) ∧
    decode 0b00000110001101110010001111100101#32 = .ok (.ldrtReg .eq false 7#4 2#4 7#5 .ror 5#4) ∧
    decode 0b10100110011101010011111111000100#32 = .ok (.ldrbtReg .ge false 5#4 3#4 0x1f#5 .asr 4#4) ∧
    decode 0b11100110001000111100011101100111#32 = .ok (.strtReg .al false 3#4 0xc#4 0xe#5 .ror 7#4) ∧
    decode 0b00000110111000010110100101001000#32 = .ok (.strbtReg .eq true 1#4 6#4 0x12#5 .asr 8#4) := by
  refine ⟨rfl, rfl, rfl, rfl, rfl, rfl, rfl, rfl, rfl, rfl, rfl, rfl⟩

theorem test_decode_block :
    decode 0b11101000101110010100111111011101#32 = .ok (.ldm .al false true true 9#4 0x4fdd#15) ∧
    decode 0b10101000000100101000101011000011#32 = .ok (.ldmPc .ge false false false 2#4 0xac3#15) ∧
    decode 0b10101001010101011110000010111110#32 = .ok (.ldmPcRestore .ge true false false 5#4 0x60be#15) ∧
    decode 0b00011001111100110100010010110000#32 = .ok (.ldmUser .ne true true true 3#4 0x44b0#15) ∧
    decode 0b11101001100001010000111010111011#32 = .ok (.stm .al true true false 5#4 0xebb#16) ∧
    decode 0b11101000110001011111000000111000#32 = .ok (.stmUser .al false true false 5#4 0xf038#16) := by
  refine ⟨rfl, rfl, rfl, rfl, rfl, rfl⟩

theorem test_decode_branchTrap :
    decode 0b00001010101000100110101010100001#32 = .ok (.b .eq 0xa26aa1#24) ∧
    decode 0b00001011110011010011011110001001#32 = .ok (.bl .eq 0xcd3789#24) ∧
    decode 0b10101100001111100010000101010111#32 = .ok (.ldc .ge false false false true 0xe#4 2#4 1#4 0x57#8) ∧
    decode 0b11101101100010011100001011111001#32 = .ok (.stc .al true true false false 9#4 0xc#4 2#4 0xf9#8) ∧
    decode 0b00011110010100010011010111000101#32 = .ok (.cdp .ne 5#4 1#4 3#4 5#4 6#3 5#4) ∧
    decode 0b11101110111101000101100111010011#32 = .ok (.mrc .al 7#3 4#4 5#4 9#4 6#3 3#4) ∧
    decode 0b10101110011011010001000100110001#32 = .ok (.mcr .ge 3#3 0xd#4 1#4 1#4 1#3 1#4) ∧
    decode 0b00001111010011001011010110011011#32 = .ok (.swi .eq 0x4cb59b#24) ∧
    decode 0b10100110111011100110010110110010#32 = .ok (.undefined .ge 0x7732d#20 2#4) := by
  refine ⟨rfl, rfl, rfl, rfl, rfl, rfl, rfl, rfl, rfl⟩

theorem test_decode_cp151 :
    decode 0b11101110101100001001111101011001#32 = .ok (.mrcId .al 5#3 9#4 2#3 9#4) ∧
    decode 0b11011110010000011000111100111011#32 = .ok (.mcrControl .le 2#3 8#4 1#3 0xb#4) ∧
    decode 0b11101110100000101011111110011001#32 = .ok (.mcrTtb .al 4#3 0xb#4 4#3 9#4) ∧
    decode 0b11011110101000110101111111010100#32 = .ok (.mcrDac .le 5#3 5#4 6#3 4#4) ∧
    decode 0b00011110011101010100111111111100#32 = .ok (.mrcFsr .ne 3#3 4#4 7#3 0xc#4) ∧
    decode 0b11101110110001010011111110010110#32 = .ok (.mcrFlushTlb .al 6#3 3#4 4#3 6#4) ∧
    decode 0b00001110111101100011111100110010#32 = .ok (.mrcFar .eq 7#3 3#4 1#3 2#4) ∧
    decode 0b11101110110001100101111110010011#32 = .ok (.mcrPurgeTlb .al 6#3 5#4 4#3 3#4) ∧
    decode 0b00001110001001111011111111110111#32 = .ok (.mcrFlushIdc .eq 1#3 0xb#4 7#3 7#4) ∧
    decode 0b11101110110000000101111110110100#32 = .ok (.mcrC0 .al 6#3 5#4 5#3 4#4) ∧
    decode 0b11101110011100010001111110010011#32 = .ok (.mrcC1 .al 3#3 1#4 4#3 3#4) ∧
    decode 0b00011110011100101000111100110101#32 = .ok (.mrcC2 .ne 3#3 8#4 1#3 5#4) ∧
    decode 0b10101110011100111001111101110100#32 = .ok (.mrcC3 .ge 3#3 9#4 3#3 4#4) ∧
    decode 0b00001110011101000100111101110011#32 = .ok (.mrcC4 .eq 3#3 4#4 3#3 3#4) ∧
    decode 0b00001110011001000111111100111000#32 = .ok (.mcrC4 .eq 3#3 7#4 1#3 8#4) ∧
    decode 0b10101110101101111011111101010100#32 = .ok (.mrcC7 .ge 5#3 0xb#4 2#3 4#4) := by
  refine ⟨rfl, rfl, rfl, rfl, rfl, rfl, rfl, rfl, rfl, rfl, rfl, rfl, rfl, rfl, rfl, rfl⟩

theorem test_decode_cp152 :
    decode 0b11101110111110010010111101111110#32 = .ok (.mrcHigh .al 7#3 1#3 2#4 3#3 0xe#4) ∧
    decode 0b00001110010011001010111100110111#32 = .ok (.mcrHigh .eq 2#3 4#3 0xa#4 1#3 7#4) := by
  refine ⟨rfl, rfl⟩
theorem test_decode_refused : decode 0b11100000000000000000000010110000#32 = .error .multiplySpace ∧
    decode 0b11100001000000000000000000000000#32 = .error .psrTransferSpace ∧
    decode 0b11100011000000000000000000000000#32 = .error .psrTransferSpace := ⟨rfl, rfl, rfl⟩

theorem test_decode_table_word : decodeTableWord 32 0xE0010392 = some (.mul .al false 1#4 0#4 3#4 2#4) := rfl

/-! ## One step each: the worked examples of the spec -/

/-- Rule R260. -/
theorem test_and : seen (run 0xE0010002#32 (start 0xD3#32 [(.r1, 0xFF00FF00#32), (.r2, 0x0FF00FF0#32)] []))
    (fun t => [t.preg .r0, t.cpsr, t.pc]) = [0x0F000F00#32, 0xD3#32, 0x8004#32] := by decide

/-- Rule R261. -/
theorem test_eor : seen (run 0xE22330FF#32 (start 0xD3#32 [(.r3, 0xF0#32)] [])) (fun t => [t.preg .r3]) = [0x0F#32] := by
  decide

/-- Rule R262. -/
theorem test_sub : seen (run 0xE2500001#32 (start 0xD3#32 [(.r0, 0x80000000#32)] [])) (fun t => [t.preg .r0, t.cpsr]) =
    [0x7FFFFFFF#32, 0x300000D3#32] := by decide

/-- Rule R262 and file 95, V-SH-38. -/
theorem test_sub_shifted : seen (run 0xE0454237#32
    (start 0xD3#32 [(.r2, 0xFFFFFF03#32), (.r7, 0x80#32), (.r5, 100#32)] [])) (fun t => [t.preg .r4]) = [84#32] := by decide

/-- Rule R263. -/
theorem test_rsb : seen (run 0xE2700000#32 (start 0xD3#32 [(.r0, 0x80000000#32)] [])) (fun t => [t.preg .r0, t.cpsr]) =
    [0x80000000#32, 0x900000D3#32] := by decide

/-- Rule R264. -/
theorem test_add : seen (run 0xE2911001#32 (start 0xD3#32 [(.r1, 0xFFFFFFFF#32)] [])) (fun t => [t.preg .r1, t.cpsr]) =
    [0#32, 0x600000D3#32] := by decide

/-- Rule R264: R15 reads 8 ahead. -/
theorem test_add_pc : seen (run 0xE28F0008#32 (start 0xD3#32 [] [])) (fun t => [t.preg .r0]) = [0x8010#32] := by decide

/-- Rule R265. -/
theorem test_adc : seen (run 0xE0B31005#32 (start 0x200000D3#32 [(.r3, 0xFFFFFFFF#32)] []))
    (fun t => [t.preg .r1, t.cpsr]) = [0#32, 0x600000D3#32] := by decide

/-- Rule R266. -/
theorem test_sbc : seen (run 0xE0D31005#32 (start 0xD3#32 [(.r3, 3#32), (.r5, 3#32)] []))
    (fun t => [t.preg .r1, t.cpsr]) = [0xFFFFFFFF#32, 0x800000D3#32] := by decide

/-- Rule R267. -/
theorem test_rsc : seen (run 0xE2F31000#32 (start 0xD3#32 [(.r1, 7#32)] [])) (fun t => [t.preg .r1, t.cpsr]) =
    [0xFFFFFFFF#32, 0x800000D3#32] := by decide

/-- Rule R268. -/
theorem test_tst : seen (run 0xE11100A1#32 (start 0xD3#32 [(.r1, 1#32)] [])) (fun t => [t.preg .r1, t.cpsr]) =
    [1#32, 0x600000D3#32] := by decide

/-- Rule R269: V is kept. -/
theorem test_teq : seen (run 0xE3340003#32 (start 0x100000D3#32 [(.r4, 3#32)] [])) (fun t => [t.cpsr]) =
    [0x500000D3#32] := by decide

/-- Rule R270. -/
theorem test_cmp : seen (run 0xE1510002#32 (start 0xD3#32 [(.r1, 0x80000000#32), (.r2, 1#32)] [])) (fun t => [t.cpsr]) =
    [0x300000D3#32] := by decide

/-- Rule R271. -/
theorem test_cmn : seen (run 0xE3700001#32 (start 0xD3#32 [(.r0, 0xFFFFFFFF#32)] [])) (fun t => [t.cpsr]) =
    [0x600000D3#32] := by decide

/-- Rule R272. -/
theorem test_orr : seen (run 0xE3800013#32 (start 0xD3#32 [(.r0, 0x600000C0#32)] [])) (fun t => [t.preg .r0]) =
    [0x600000D3#32] := by decide

/-- Rule R273: RRX. -/
theorem test_mov_rrx : seen (run 0xE1B02060#32 (start 0xD3#32 [(.r0, 3#32)] [])) (fun t => [t.preg .r2, t.cpsr]) =
    [1#32, 0x200000D3#32] := by decide

/-- Rules R252, R273: MOVS PC,R14 returns from an exception. -/
theorem test_movs_pc : seen (run 0xE1B0F00E#32 (withSpsrSvc (start 0xD3#32 [(.r14Svc, 0x9002#32)] []) 0x60000010#32))
    (fun t => [t.pc, t.cpsr]) = [0x9000#32, 0x60000010#32] := by decide

/-- Rule R274. -/
theorem test_bic : seen (run 0xE3C0001F#32 (start 0xD3#32 [(.r0, 0x600000D3#32)] [])) (fun t => [t.preg .r0]) =
    [0x600000C0#32] := by decide

/-- Rule R275: ASR #32. -/
theorem test_mvn : seen (run 0xE1F00041#32 (start 0xD3#32 [(.r1, 0x80000000#32)] [])) (fun t => [t.preg .r0, t.cpsr]) =
    [0#32, 0x600000D3#32] := by decide

/-- Rule R291. -/
theorem test_mrs : seen (run 0xE10F0000#32 (start 0x600000D3#32 [] [])) (fun t => [t.preg .r0]) = [0x600000D3#32] := by
  decide

/-- Rule R292: a whole PSR in a privileged mode. -/
theorem test_msr : seen (run 0xE129F000#32 (start 0xD3#32 [(.r0, 0x600000D2#32)] [])) (fun t => [t.cpsr]) =
    [0x600000D2#32] := by decide

/-- Rule R293: in User mode the flags alone. -/
theorem test_msr_user : seen (run 0xE129F000#32 (start 0x10#32 [(.r0, 0xF00000D3#32)] [])) (fun t => [t.cpsr]) =
    [0xF0000010#32] := by decide

/-- Rule R294. -/
theorem test_msr_flags : seen (run 0xE128F000#32 (start 0x600000D3#32 [(.r0, 0x90000013#32)] [])) (fun t => [t.cpsr]) =
    [0x900000D3#32] := by decide

/-- Rule R295 and file 95, S3. -/
theorem test_msr_flags_immediate : seen (run 0xE328F20A#32 (start 0x10#32 [] [])) (fun t => [t.cpsr]) =
    [0xA0000010#32] := by decide

/-- Rule R301. -/
theorem test_mul : seen (run 0xE0010392#32 (start 0xD3#32 [(.r2, 0xFFFFFFFF#32), (.r3, 2#32)] []))
    (fun t => [t.preg .r1, t.cpsr]) = [0xFFFFFFFE#32, 0xD3#32] := by decide

/-- Rule R302. -/
theorem test_mla : seen (run 0x00314392#32 (start 0x400000D3#32 [(.r2, 3#32), (.r3, 4#32), (.r4, 5#32)] []))
    (fun t => [t.preg .r1]) = [17#32] := by decide

/-- Rule R304: MUL with Rd = Rm gives zero. -/
theorem test_mul_same : seen (run 0xE0020392#32 (start 0xD3#32 [(.r2, 7#32), (.r3, 2#32)] [])) (fun t => [t.preg .r2]) =
    [0#32] := by decide

/-- Rule R371. -/
theorem test_swp : seen (run 0xE1020091#32 (start 0xD3#32 [(.r0, 9#32), (.r1, 1#32), (.r2, 0x4000#32)] []))
    (fun t => [t.preg .r0, wordAt t 0x4000]) = [0#32, 1#32] := by decide

/-- Ruling U15 of file 93: bits [11:8] of a SWP are ignored. -/
theorem test_swp_ignored : seen (run 0xE1020F91#32 (start 0xD3#32 [(.r0, 9#32), (.r1, 1#32), (.r2, 0x4000#32)] []))
    (fun t => [t.preg .r0, wordAt t 0x4000]) = [0#32, 1#32] := by decide

/-- Rules R111, R406: each copy of a large page descriptor serves its 4 kB, and a purge reaches over the 64 kB. -/
theorem test_large_page : [0x00FFF#32, 0x01000#32, 0x0FFFF#32, 0x10000#32].map (fun va =>
      ((largeEntry 0x6001#32 0x00120FFD#32 0#32).map.covers va, (largeEntry 0x6001#32 0x00120FFD#32 0#32).map.inPage va)) =
    [(true, true), (false, true), (false, true), (false, false)] := by decide

/-- Rule R372. -/
theorem test_swpb : seen (run 0xE1442093#32 (start 0xD3#32 [(.r3, 0x123456FF#32), (.r4, 0x4001#32)] [(0x4000, 0xAA0055#32)]))
    (fun t => [t.preg .r2, wordAt t 0x4000]) = [0#32, 0x00AAFF55#32] := by decide

/-- Rule R313. -/
theorem test_ldr : seen (run 0xE5921010#32 (start 0xD3#32 [(.r2, 0x1000#32)] [(0x1010, 0x11223344#32)]))
    (fun t => [t.preg .r1, t.preg .r2]) = [0x11223344#32, 0x1000#32] := by decide

/-- Rules R90, R313: a word load from a byte address is rotated. -/
theorem test_ldr_unaligned : seen (run 0xE4910004#32 (start 0xD3#32 [(.r1, 0x1001#32)] [(0x1000, 0x44332211#32)]))
    (fun t => [t.preg .r0, t.preg .r1]) = [0x11443322#32, 0x1005#32] := by decide

/-- Rule R314. -/
theorem test_ldr_pc : seen (run 0xE792F101#32 (start 0xD3#32 [(.r2, 0x9000#32), (.r1, 3#32)] [(0x900C, 0xA120#32)]))
    (fun t => [t.pc, t.cpsr]) = [0xA120#32, 0xD3#32] := by decide

/-- Rule R315 and file 95, S5, little-endian. -/
theorem test_ldrb : seen (run 0x05D61005#32 (start 0x400000D3#32 [(.r6, 0x1000#32)] [(0x1004, 0x11223344#32)]))
    (fun t => [t.preg .r1]) = [0x33#32] := by decide

/-- Rule R315 and file 95, S5, big-endian. -/
theorem test_ldrb_big : seen (run 0x05D61005#32
    (withControl (start 0x400000D3#32 [(.r6, 0x1000#32)] [(0x1004, 0x11223344#32)]) 0xB0#32)) (fun t => [t.preg .r1]) =
    [0x22#32] := by decide

/-- Rule R316. -/
theorem test_str : seen (run 0xE7A21004#32 (start 0xD3#32 [(.r1, 0xCAFE#32), (.r2, 0x1000#32), (.r4, 0x20#32)] []))
    (fun t => [wordAt t 0x1020, t.preg .r2]) = [0xCAFE#32, 0x1020#32] := by decide

/-- Rule R316: R15 is stored as `ia + 12`. -/
theorem test_str_pc : seen (run 0xE580F000#32 (start 0xD3#32 [(.r0, 0x1003#32)] [])) (fun t => [wordAt t 0x1000]) =
    [0x800C#32] := by decide

/-- Rule R317, little-endian. -/
theorem test_strb : seen (run 0xE5C10003#32 (start 0xD3#32 [(.r0, 0x123456AB#32), (.r1, 0x1000#32)]
    [(0x1000, 0x44332211#32)])) (fun t => [wordAt t 0x1000]) = [0xAB332211#32] := by decide

/-- Rule R317, big-endian. -/
theorem test_strb_big : seen (run 0xE5C10003#32 (withControl (start 0xD3#32 [(.r0, 0x123456AB#32), (.r1, 0x1000#32)]
    [(0x1000, 0x44332211#32)]) 0xB0#32)) (fun t => [wordAt t 0x1000]) = [0x443322AB#32] := by decide

/-- Rule R318. -/
theorem test_ldrt : seen (run 0xE4B10004#32 (start 0xD3#32 [(.r1, 0x1000#32)] [(0x1000, 5#32)]))
    (fun t => [t.preg .r0, t.preg .r1]) = [5#32, 0x1004#32] := by decide

/-- Rule R319. -/
theorem test_ldrbt : seen (run 0xE4F10001#32 (start 0xD3#32 [(.r1, 0x1000#32)] [(0x1000, 0x105#32)]))
    (fun t => [t.preg .r0, t.preg .r1]) = [5#32, 0x1001#32] := by decide

/-- Rule R320. -/
theorem test_strt : seen (run 0xE4A10004#32 (start 0xD3#32 [(.r0, 8#32), (.r1, 0x1000#32)] []))
    (fun t => [wordAt t 0x1000, t.preg .r1]) = [8#32, 0x1004#32] := by decide

/-- Rule R321. -/
theorem test_strbt : seen (run 0xE4E10001#32 (start 0xD3#32 [(.r0, 0x108#32), (.r1, 0x1001#32)] []))
    (fun t => [wordAt t 0x1000, t.preg .r1]) = [0x800#32, 0x1002#32] := by decide

/-- Rule R344. -/
theorem test_ldm : seen (run 0xE8BD0007#32 (start 0xD3#32 [(.r13Svc, 0x8000#32)]
    [(0x8000, 0x11#32), (0x8004, 0x22#32), (0x8008, 0x33#32)]))
    (fun t => [t.preg .r0, t.preg .r1, t.preg .r2, t.preg .r13Svc]) = [0x11#32, 0x22#32, 0x33#32, 0x800C#32] := by decide

/-- Rule R352: a loaded base keeps the loaded word. -/
theorem test_ldm_base : seen (run 0xE8B00003#32 (start 0xD3#32 [(.r0, 0x1000#32)] [(0x1000, 7#32), (0x1004, 8#32)]))
    (fun t => [t.preg .r0, t.preg .r1]) = [7#32, 8#32] := by decide

/-- Rule R345. -/
theorem test_ldm_pc : seen (run 0xE9BD800F#32 (start 0xD3#32 [(.r13Svc, 0x7FEC#32)] [(0x7FF0, 1#32), (0x8000, 0x9003#32)]))
    (fun t => [t.preg .r0, t.pc, t.preg .r13Svc, t.cpsr]) = [1#32, 0x9000#32, 0x8000#32, 0xD3#32] := by decide

/-- Rule R346. -/
theorem test_ldm_restore : seen (run 0xE8FD8000#32
    (withSpsrSvc (start 0xD3#32 [(.r13Svc, 0x7000#32)] [(0x7000, 0x9000#32)]) 0x20000010#32))
    (fun t => [t.pc, t.preg .r13Svc, t.cpsr]) = [0x9000#32, 0x7004#32, 0x20000010#32] := by decide

/-- Rule R350. -/
theorem test_ldm_user : seen (run 0xE8D06000#32 (start 0xD3#32 [(.r0, 0x1000#32), (.r13Svc, 3#32)]
    [(0x1000, 7#32), (0x1004, 8#32)])) (fun t => [t.preg .r13Usr, t.preg .r14Usr, t.preg .r13Svc]) =
    [7#32, 8#32, 3#32] := by decide

/-- Rule R347. -/
theorem test_stm : seen (run 0xE82D400F#32 (start 0xD3#32 [(.r0, 1#32), (.r3, 4#32), (.r14Svc, 5#32),
    (.r13Svc, 0x8000#32)] [])) (fun t => [wordAt t 0x7FF0, wordAt t 0x7FFC, wordAt t 0x8000, t.preg .r13Svc]) =
    [1#32, 4#32, 5#32, 0x7FEC#32] := by decide

/-- Rule R352: a base that is not the first is stored modified. -/
theorem test_stm_base : seen (run 0xE8A10007#32 (start 0xD3#32 [(.r0, 9#32), (.r1, 0x1000#32)] []))
    (fun t => [wordAt t 0x1000, wordAt t 0x1004, t.preg .r1]) = [9#32, 0x100C#32, 0x100C#32] := by decide

/-- Rule R351. -/
theorem test_stm_user : seen (run 0xE94D6000#32 (start 0xD3#32 [(.r13Svc, 0x9000#32), (.r13Usr, 6#32), (.r14Usr, 7#32)] []))
    (fun t => [wordAt t 0x8FF8, wordAt t 0x8FFC, t.preg .r13Svc]) = [6#32, 7#32, 0x9000#32] := by decide

/-- Rule R233. -/
theorem test_b : seen (run 0xEAFFFFFE#32 (start 0xD3#32 [] [])) (fun t => [t.pc]) = [0x8000#32] := by decide

/-- Rule R234. -/
theorem test_bl : seen (run 0xEB00003E#32 (start 0xD3#32 [] [])) (fun t => [t.pc, t.preg .r14Svc]) =
    [0x8100#32, 0x8004#32] := by decide

/-- Rules R380, R436. -/
theorem test_swi : seen (run 0xEF123456#32 (start 0x40000010#32 [] [])) (fun t => [t.pc, t.cpsr, t.spsrSvc, t.preg .r14Svc]) =
    [8#32, 0x40000093#32, 0x40000010#32, 0x8004#32] := by decide

/-- Rules R387, R390, R392, R395, R396, R398, R420: every instruction the device cannot handle takes the trap. -/
theorem test_undefined_trap :
    ([0xEEA21103#32, 0xED9F2104#32, 0xEDE53206#32, 0xEEB53216#32, 0xEE064610#32, 0xEE180F10#32, 0xEE080F10#32,
        0xE7F000F0#32].map fun w =>
      seen (run w (start 0xD3#32 [] [])) fun t => [t.pc, t.cpsr, t.preg .r14Und, t.spsrUnd]) =
      List.replicate 8 [4#32, 0xDB#32, 0x8004#32, 0xD3#32] := by decide

/-- Rule R398: coprocessor 15 traps in User mode, reads and writes. -/
theorem test_cp15_user : ([0xEE100F10#32, 0xEE010F10#32].map fun w =>
      seen (run w (start 0x10#32 [] [])) fun t => [t.pc, t.spsrUnd]) = List.replicate 2 [4#32, 0x10#32] := by decide

/-- Rule R409. -/
theorem test_mrc_far : seen (run 0xEE160F10#32
    { start 0xD3#32 [] [] with cp15 := { Cp15.reset with control := 0x30#32, far := 0x1234#32 } })
    (fun t => [t.preg .r0]) = [0x1234#32] := by decide

/-- Rules R401, R408, R410: the reads whose value is open go on. -/
theorem test_mrc_open : ([0xEE100F10#32, 0xEE150F10#32, 0xEE110F10#32, 0xEE120F10#32, 0xEE130F10#32, 0xEE140F10#32,
      0xEE170F10#32].map fun w => seen (run w (start 0xD3#32 [] [])) fun t => [t.pc, t.cpsr]) =
    List.replicate 7 [0x8004#32, 0xD3#32] := by decide

/-- Rule R402. -/
theorem test_mcr_control : seen (run 0xEE010F10#32 (start 0xD3#32 [(.r0, 0x3D#32)] [])) (fun t => [t.cp15.control]) =
    [0x3D#32] := by decide

/-- Rules R403, R404. -/
theorem test_mcr_tables : seen (run 0xEE020F10#32 (start 0xD3#32 [(.r0, 0x4000#32)] [])) (fun t => [t.cp15.ttb]) =
      [0x4000#32] ∧
    seen (run 0xEE030F10#32 (start 0xD3#32 [(.r0, 0x55#32)] [])) (fun t => [t.cp15.dac]) = [0x55#32] := by decide

/-- Rules R405, R406, R407, R410: the operations and the writes of invalid registers. -/
theorem test_mcr_operations : ([0xEE050F10#32, 0xEE060F10#32, 0xEE070F10#32, 0xEE000F10#32, 0xEE040F10#32].map fun w =>
      seen (run w (start 0xD3#32 [] [])) fun t => [t.pc, t.cp15.control]) =
    List.replicate 5 [0x8004#32, 0x30#32] := by decide

/-- Rules R106, R107: a load through a section. -/
theorem test_section : seen (run 0xE5920010#32
    { start 0xD3#32 [(.r2, 0x100000#32)] [(0x4004, 0x00200002#32), (0x200010, 0x77#32)] with
      cp15 := { Cp15.reset with control := 0x31#32, ttb := 0x4000#32, dac := 3#32 } })
    (fun t => [t.preg .r0, t.pc]) = [0x77#32, 0x8004#32] := by decide

/-- Rules R105, R120: a section translation fault. -/
theorem test_translation_fault : seen (run 0xE5920010#32
    { start 0xD3#32 [(.r2, 0x100000#32)] [] with
      cp15 := { Cp15.reset with control := 0x31#32, ttb := 0x4000#32, dac := 3#32 } })
    (fun t => [t.pc, t.cp15.far, t.cp15.fsrStatus.setWidth 32, t.preg .r14Abt]) =
    [0x10#32, 0x100010#32, 5#32, 0x8008#32] := by decide

/-- Rules R438, R450: FIQ before IRQ. -/
theorem test_fiq_first : seen (step (withInputs (start 0x10#32 [] []) true true false)) (fun t => [t.pc, t.cpsr, t.preg .r14Fiq]) =
    [0x1C#32, 0xD1#32, 0x8004#32] := by decide

/-- Rule R437. -/
theorem test_irq : seen (step (withInputs (start 0x10#32 [] []) false true false)) (fun t => [t.pc, t.cpsr, t.spsrIrq]) =
    [0x18#32, 0x92#32, 0x10#32] := by decide

/-- Rule R432. -/
theorem test_reset : seen (step (withInputs (start 0x10#32 [] []) true true true)) (fun t => [t.pc, t.cpsr, t.cp15.control]) =
    [0#32, 0xD3#32, 0#32] := by decide

/-- A word placed by `withFetchWord` is the next instruction. -/
theorem test_fetch_word : seen (step (State.reset.withFetchWord 32 0xE3A00102)) (fun t => [t.preg .r0, t.pc]) =
    [0x80000000#32, 4#32] := by decide

/-! ## Shifts at the ends of their ranges (rules R242 to R248) -/

theorem test_shift_immediate_ends :
    shiftByImmediate .lsl 1#5 0x80000001#32 false = ⟨2#32, true⟩ ∧
      shiftByImmediate .lsl 31#5 0x80000003#32 false = ⟨0x80000000#32, true⟩ ∧
      shiftByImmediate .lsr 0#5 0x80000001#32 false = ⟨0#32, true⟩ ∧
      shiftByImmediate .lsr 31#5 0xC0000000#32 false = ⟨1#32, true⟩ ∧
      shiftByImmediate .asr 0#5 0x80000000#32 false = ⟨0xFFFFFFFF#32, true⟩ ∧
      shiftByImmediate .asr 1#5 0x80000001#32 false = ⟨0xC0000000#32, true⟩ ∧
      shiftByImmediate .ror 1#5 1#32 false = ⟨0x80000000#32, true⟩ ∧
      shiftByImmediate .ror 0#5 2#32 true = ⟨0x80000001#32, false⟩ := by decide

theorem test_shift_register_ends :
    shiftByRegister .lsl 0 5#32 true = ⟨5#32, true⟩ ∧ shiftByRegister .lsl 31 3#32 false = ⟨0x80000000#32, true⟩ ∧
      shiftByRegister .lsl 32 1#32 false = ⟨0#32, true⟩ ∧ shiftByRegister .lsl 33 1#32 true = ⟨0#32, false⟩ ∧
      shiftByRegister .lsr 32 0x80000000#32 false = ⟨0#32, true⟩ ∧ shiftByRegister .lsr 255 1#32 true = ⟨0#32, false⟩ ∧
      shiftByRegister .asr 32 0x80000000#32 false = ⟨0xFFFFFFFF#32, true⟩ ∧
      shiftByRegister .asr 255 1#32 true = ⟨0#32, false⟩ ∧
      shiftByRegister .ror 32 0x80000000#32 false = ⟨0x80000000#32, true⟩ ∧
      shiftByRegister .ror 33 1#32 false = ⟨0x80000000#32, true⟩ ∧
      shiftByRegister .ror 1 1#32 false = ⟨0x80000000#32, true⟩ := by decide

theorem test_immediate_ends : rotatedImmediate 1#4 2#8 = 0x80000000#32 ∧ rotatedImmediate 15#4 1#8 = 4#32 ∧
    rotatedImmediate 0#4 0xFF#8 = 0xFF#32 := by decide

/-- Rule R22: the ends of the ranges of the bank table. -/
theorem test_banks : Mode.fiq.bank 7#4 = Mode.usr.bank 7#4 ∧ Mode.fiq.bank 8#4 = some .r8Fiq ∧
    Mode.usr.bank 8#4 = some .r8 ∧ Mode.irq.bank 12#4 = Mode.und.bank 12#4 ∧ Mode.irq.bank 13#4 = some .r13Irq ∧
    Mode.abt.bank 14#4 = some .r14Abt ∧ Mode.svc.bank 15#4 = none := by decide



/-! ## Witnesses: a state and operands that meet the hypotheses of each statement -/

theorem witness_DecodeEncode : (Instr.mrc .al 7#3 15#4 15#4 14#4 7#3 15#4).encodable = true := rfl

theorem witness_EncodeDecode : decode 0xEF123456#32 = .ok (.swi .al 0x123456#24) := rfl

/-- The state of the fetch witnesses: one word at the pc. -/
def fetchState (w : Word) : State := start 0xD3#32 [] [(0x8000, w)]

/-- The state in which the word at the pc executes. -/
def fetchedState (s : State) : State := (s.popInputs.2.withSys s.popInputs.2.sys.drainSome).fetched .svc

theorem witness_StepRunsDecoded :
    (fetchState 0xE2810001#32).popInputs.1.reset = false ∧ (fetchState 0xE2810001#32).Runs .svc ∧
      pendingInterrupt (fetchState 0xE2810001#32).popInputs.1 (fetchState 0xE2810001#32) = none ∧
      (fetchedState (fetchState 0xE2810001#32)).head = .word 0xE2810001#32 0x8000#32 ∧
      decode 0xE2810001#32 = .ok (.addImm .al false 1#4 0#4 0#4 1#8) ∧
      (fetchState 0xE2810001#32).sys.pipe = [] ∧ (fetchState 0xE2810001#32).FlatAt .read (fetchState 0xE2810001#32).pc ∧
      (fetchState 0xE2810001#32).sys.physWord ((fetchState 0xE2810001#32).pc.toNat / 4) = 0xE2810001#32 :=
  ⟨rfl, ⟨rfl, rfl, rfl⟩, rfl, by decide, rfl, rfl, ⟨rfl, rfl, rfl, rfl⟩, by decide⟩

theorem start_inv : (start 0xD3#32 [] []).Inv :=
  ⟨⟨rfl, rfl, List.Pairwise.nil⟩, ⟨rfl, rfl, fun _ => ⟨rfl, rfl⟩⟩, rfl⟩

theorem witness_StepKeepsInv : (start 0xD3#32 [] []).Inv ∧ ∃ t, step (start 0xD3#32 [] []) = .next t :=
  ⟨start_inv, _, rfl⟩

theorem witness_ResetEntry : (withInputs (start 0#32 [] []) false false true).popInputs.1.reset = true := rfl

theorem witness_IllegalModeStuck :
    ((start 0x1F#32 [] []).cpsr.extractLsb' 0 5 ≠ 0b10000#5 ∧ (start 0x1F#32 [] []).cpsr.extractLsb' 0 5 ≠ 0b10001#5 ∧
      (start 0x1F#32 [] []).cpsr.extractLsb' 0 5 ≠ 0b10010#5 ∧ (start 0x1F#32 [] []).cpsr.extractLsb' 0 5 ≠ 0b10011#5 ∧
      (start 0x1F#32 [] []).cpsr.extractLsb' 0 5 ≠ 0b10111#5 ∧ (start 0x1F#32 [] []).cpsr.extractLsb' 0 5 ≠ 0b11011#5) ∧
      (start 0x1F#32 [] []).popInputs.1.reset = false ∧
      (withInputs (start 0x1F#32 [] []) false false true).popInputs.1.reset = true ∧
      (withInputs (start 0x1F#32 [] []) false false true).cpsr = (start 0x1F#32 [] []).cpsr := by
  refine ⟨by decide, rfl, rfl, rfl⟩

theorem witness_StepRefuses_program : (withControl (start 0xD3#32 [] []) 0x20#32).mode = some .svc ∧
    (withControl (start 0xD3#32 [] []) 0x20#32).cp15.prog32 = false ∧
    (withControl (start 0xD3#32 [] []) 0x20#32).popInputs.1.reset = false := ⟨rfl, rfl, rfl⟩

theorem witness_StepRefuses_data : (withControl (start 0xD3#32 [] []) 0x10#32).mode = some .svc ∧
    (withControl (start 0xD3#32 [] []) 0x10#32).cp15.data32 = false ∧
    (withControl (start 0xD3#32 [] []) 0x10#32).popInputs.1.reset = false := ⟨rfl, rfl, rfl⟩

theorem witness_StepRefuses_word :
    (fetchState 0xE00000B0#32).popInputs.1.reset = false ∧ (fetchState 0xE00000B0#32).Runs .svc ∧
      pendingInterrupt (fetchState 0xE00000B0#32).popInputs.1 (fetchState 0xE00000B0#32) = none ∧
      (fetchedState (fetchState 0xE00000B0#32)).head = .word 0xE00000B0#32 0x8000#32 ∧
      decode 0xE00000B0#32 = .error .multiplySpace ∧
      conditionHolds (condOf 0xE00000B0#32) (fetchState 0xE00000B0#32).flags = true :=
  ⟨rfl, ⟨rfl, rfl, rfl⟩, rfl, by decide, rfl, rfl⟩

theorem witness_StepRefuses_skipped :
    (fetchState 0x01000000#32).popInputs.1.reset = false ∧ (fetchState 0x01000000#32).Runs .svc ∧
      pendingInterrupt (fetchState 0x01000000#32).popInputs.1 (fetchState 0x01000000#32) = none ∧
      (fetchedState (fetchState 0x01000000#32)).head = .word 0x01000000#32 0x8000#32 ∧
      decode 0x01000000#32 = .error .psrTransferSpace ∧
      conditionHolds (condOf 0x01000000#32) (fetchState 0x01000000#32).flags = false :=
  ⟨rfl, ⟨rfl, rfl, rfl⟩, rfl, by decide, rfl, rfl⟩

theorem witness_ConditionFails : (start 0xD3#32 [] []).Runs .svc ∧
    conditionHolds (Instr.swi .nv 0#24).cond (start 0xD3#32 [] []).flags = false := ⟨⟨rfl, rfl, rfl⟩, rfl⟩

theorem witness_UserModeConfined : (start 0x10#32 [] []).Runs .usr ∧
    (∃ t, exec (.movImm .al false 0#4 0#4 0#4 1#8) (start 0x10#32 [] []) = .next t) ∧
    (∃ t, exec (.swi .al 0#24) (start 0x10#32 [] []) = .next t) ∧
    ∃ t, exec (.mcrControl .al 0#3 0#4 0#3 0#4) (start 0x10#32 [] []) = .next t :=
  ⟨⟨rfl, rfl, rfl⟩, ⟨_, rfl⟩, ⟨_, rfl⟩, ⟨_, rfl⟩⟩

theorem witness_UserModeLeftByException : (withInputs (start 0x10#32 [] []) false true false).mode = some .usr ∧
    ∃ t, step (withInputs (start 0x10#32 [] []) false true false) = .next t ∧ t.mode ≠ some .usr :=
  ⟨rfl, _, rfl, by decide⟩

theorem witness_RegisterBanks : (start 0xD3#32 [] []).bankHazard = false ∧ (14#4 : RegNo) ≠ 15#4 := ⟨rfl, by decide⟩

/-- The default state of the witnesses below: Supervisor mode, where condition AL is executed. -/
def svc : State := start 0xD3#32 [(.r1, 0x1000#32), (.r2, 8#32), (.r3, 3#32)] [(0x1000, 0x11#32), (0x1004, 0x22#32)]

/-- The same in User mode. -/
def usr : State := svc.setCpsr 0x10#32

theorem svc_executes : svc.Executes .svc .al := ⟨⟨rfl, rfl, rfl⟩, rfl⟩

theorem usr_executes : usr.Executes .usr .al := ⟨⟨rfl, rfl, rfl⟩, rfl⟩

/-- An entry for the section at 0: domain 0, cacheable and bufferable, at physical 0x00300000. -/
def section0 : TlbEntry := { map := .sectionMap 0#12 3#12 1#2, domain := 0#4, cacheable := true, bufferable := true }

/-- The default state with MMU, cache and write buffer on, domain 0 a manager, and that entry in the TLB. -/
def mapped : State := withTlb { svc with cp15 := { Cp15.reset with control := 0x3D#32, dac := 3#32 } } section0

theorem mapped_executes : mapped.Executes .svc .al := ⟨⟨rfl, rfl, rfl⟩, rfl⟩

theorem witness_DataProcessingCompletes :
    viewOf (.addShReg .al true 1#4 0#4 2#4 .lsl 3#4) = .dp .add .al true 1#4 0#4 (.shReg 2#4 .lsl 3#4) ∧
      svc.Executes .svc .al ∧ (Operand2.shReg 2#4 .lsl 3#4).amountIsR15 = false ∧ (0#4 : RegNo) ≠ 15#4 :=
  ⟨rfl, svc_executes, rfl, by decide⟩

theorem witness_DataProcessingCompletes_test :
    viewOf (.cmpImm .al 1#4 0#4 0#4 1#8) = .dp .cmp .al true 1#4 0#4 (.imm 0#4 1#8) ∧ svc.Executes .svc .al ∧
      (Operand2.imm 0#4 1#8).amountIsR15 = false ∧ (0#4 : RegNo) ≠ 15#4 := ⟨rfl, svc_executes, rfl, by decide⟩

/-- Rules R242 to R245: an amount for each clause, at both ends of its range. -/
theorem witness_ImmediateShifts : (0#5 = 0#5) ∧ (1#5 ≠ 0#5) ∧ (31#5 ≠ 0#5) ∧
    shiftByImmediate .lsl 31#5 3#32 false = ⟨0x80000000#32, true⟩ ∧ shiftByImmediate .lsr 1#5 3#32 false = ⟨1#32, true⟩ ∧
    shiftByImmediate .asr 31#5 0xC0000000#32 false = ⟨0xFFFFFFFF#32, true⟩ ∧
    shiftByImmediate .ror 31#5 1#32 true = ⟨2#32, false⟩ := by decide

/-- Rule R248: an amount for each clause, at both ends of its range. -/
theorem witness_RegisterShifts : (255 < 256) ∧ shiftByRegister .lsr 0 3#32 true = ⟨3#32, true⟩ ∧
    shiftByRegister .lsl 1 3#32 true = shiftByImmediate .lsl 1#5 3#32 true ∧
    shiftByRegister .asr 31 3#32 true = shiftByImmediate .asr 31#5 3#32 true ∧
    shiftByRegister .lsl 32 3#32 false = ⟨0#32, true⟩ ∧ shiftByRegister .lsl 33 3#32 true = ⟨0#32, false⟩ ∧
    shiftByRegister .ror 33 3#32 false = ⟨0x80000001#32, true⟩ ∧
    shiftByRegister .asr 255 0x80000000#32 false = ⟨0xFFFFFFFF#32, true⟩ := by decide

theorem witness_OperandForms : (1#4 ≠ 0#4) ∧ (15#4 ≠ 0#4) ∧ ((14#4 : RegNo) ≠ 15#4) ∧ (0x8001#16 : BitVec 16) ≠ 0#16 ∧
    (listRegisters 0x8001#16)[0]? = some 0#4 ∧ (listRegisters 0x8001#16)[1]? = some 15#4 := by decide

/-- Rule R358: R1, R5 and R7 at Rn = 0x1000, in the four modes. -/
theorem test_block_figures : [(false, true), (true, true), (false, false), (true, false)].map (fun m =>
      (blockStart m.1 m.2 0x1000#32 0xA2#16, blockFinal m.2 0x1000#32 0xA2#16)) =
    [(0x1000#32, 0x100C#32), (0x1004#32, 0x100C#32), (0xFF8#32, 0xFF4#32), (0xFF4#32, 0xFF4#32)] := by decide

theorem witness_DataProcessingToPc :
    viewOf (.movShImm .al true 0#4 15#4 0#5 .lsl 14#4) = .dp .mov .al true 0#4 15#4 (.shImm 0#5 .lsl 14#4) ∧
      svc.Executes .svc .al ∧ usr.Executes .usr .al ∧ (Operand2.shImm 0#5 .lsl 14#4).amountIsR15 = false ∧
      DpOp.isTest .mov = false := ⟨rfl, svc_executes, usr_executes, rfl, rfl⟩

theorem witness_TestToPsr :
    viewOf (.teqShImm .al 0#4 15#4 0#5 .lsl 14#4) = .dp .teq .al true 0#4 15#4 (.shImm 0#5 .lsl 14#4) ∧
      svc.Executes .svc .al ∧ usr.Executes .usr .al ∧ (Operand2.shImm 0#5 .lsl 14#4).amountIsR15 = false ∧
      DpOp.isTest .teq = true := ⟨rfl, svc_executes, usr_executes, rfl, rfl⟩

theorem witness_MrsCompletes : viewOf (.mrs .al .spsr 0#4) = .mrs .al .spsr 0#4 ∧ svc.Executes .svc .al ∧
    (0#4 : RegNo) ≠ 15#4 ∧ (PsrSel.spsr = .spsr → Mode.svc ≠ .usr) := ⟨rfl, svc_executes, by decide, by decide⟩

theorem witness_MsrCompletes : viewOf (.msrPsr .al .cpsr 1#4) = .msr .al .cpsr 1#4 ∧ usr.Executes .usr .al ∧
    (1#4 : RegNo) ≠ 15#4 ∧ (PsrSel.cpsr = .spsr → Mode.usr ≠ .usr) := ⟨rfl, usr_executes, by decide, by decide⟩

theorem witness_MsrFlagsCompletes : viewOf (.msrFlagsImm .al .spsr 2#4 15#8) = .msrFlags .al .spsr (.imm 2#4 15#8) ∧
    svc.Executes .svc .al ∧ (FlagSource.imm 2#4 15#8).isR15 = false ∧ (PsrSel.spsr = .spsr → Mode.svc ≠ .usr) :=
  ⟨rfl, svc_executes, rfl, by decide⟩

theorem witness_MultiplyCompletes_mul :
    viewOf (.mul .al true 0#4 0#4 2#4 3#4) = (if false then .mla .al true 0#4 1#4 2#4 3#4 else .mul .al true 0#4 2#4 3#4) ∧
      svc.Executes .svc .al ∧ (0#4 : RegNo) ≠ 15#4 ∧ (2#4 : RegNo) ≠ 15#4 ∧ (3#4 : RegNo) ≠ 15#4 :=
  ⟨rfl, svc_executes, by decide, by decide, by decide⟩

theorem witness_MultiplyCompletes_mla :
    viewOf (.mla .al true 0#4 1#4 2#4 3#4) = (if true then .mla .al true 0#4 1#4 2#4 3#4 else .mul .al true 0#4 2#4 3#4) ∧
      svc.Executes .svc .al ∧ (0#4 : RegNo) ≠ 15#4 ∧ (2#4 : RegNo) ≠ 15#4 ∧ (3#4 : RegNo) ≠ 15#4 ∧
      (true = true → (1#4 : RegNo) ≠ 15#4) :=
  ⟨rfl, svc_executes, by decide, by decide, by decide, by decide⟩

theorem witness_SwapCompletes : viewOf (.swpb .al 1#4 0#4 2#4) = .swap .byte .al 1#4 0#4 2#4 ∧ svc.Executes .svc .al ∧
    (0#4 : RegNo) ≠ 15#4 ∧ (1#4 : RegNo) ≠ 15#4 ∧ (2#4 : RegNo) ≠ 15#4 ∧ svc.cp15.mmuOn = false ∧
    svc.sys.asserts .lockedRead (svc.read .svc 1#4 8#32) = false ∧
    svc.sys.asserts .lockedWrite (svc.read .svc 1#4 8#32) = false ∧
    svc.sys.isVolatile (svc.read .svc 1#4 8#32) = false ∧
    misaligned svc.cp15 .byte (svc.read .svc 1#4 8#32) = false :=
  ⟨rfl, svc_executes, by decide, by decide, by decide, rfl, rfl, rfl, rfl, rfl⟩

/-- The second clause, with the MMU on. -/
theorem witness_SwapCompletes_mapped : mapped.Executes .svc .al ∧
    (∃ old m, swapAccess mapped.cp15 .byte 0x1000#32 Mode.svc.privileged 8#32 mapped.sys = .ok old m) ∧
    ∃ old m1 tr m2, lockedRead mapped.cp15 .byte 0x1000#32 Mode.svc.privileged mapped.sys = .ok old m1 ∧
      Machine.translate mapped.cp15 0x1000#32 true Mode.svc.privileged m1 = .ok tr m2 ∧ tr.pa = 0x00301000#32 :=
  ⟨mapped_executes, ⟨_, _, rfl⟩, _, _, _, _, rfl, rfl, rfl⟩

theorem witness_SwapAborts : viewOf (.swp .al 1#4 0#4 2#4) = .swap .word .al 1#4 0#4 2#4 ∧
    (withAbort svc 0x1000 [.lockedRead]).Executes .svc .al ∧ (0#4 : RegNo) ≠ 15#4 ∧ (1#4 : RegNo) ≠ 15#4 ∧
    (2#4 : RegNo) ≠ 15#4 ∧
    (∃ f m, swapAccess svc.cp15 .word 0x1000#32 true 8#32 (withAbort svc 0x1000 [.lockedRead]).sys = .abort f m) ∧
    ∀ old m1, lockedRead svc.cp15 .word 0x1000#32 true (withAbort svc 0x1000 [.lockedRead]).sys ≠ .ok old m1 :=
  ⟨rfl, ⟨⟨rfl, rfl, rfl⟩, rfl⟩, by decide, by decide, by decide, ⟨_, _, rfl⟩, fun _ _ => by
    rw [show lockedRead svc.cp15 .word 0x1000#32 true (withAbort svc 0x1000 [.lockedRead]).sys = .abort _ _ from rfl]
    exact fun h => by cases h⟩

theorem witness_SwapAborts_write : (withAbort svc 0x1000 [.lockedWrite]).Executes .svc .al ∧
    (withAbort svc 0x1000 [.lockedWrite]).cp15.mmuOn = false ∧
    ∃ f m, swapAccess svc.cp15 .word 0x1000#32 true 8#32 (withAbort svc 0x1000 [.lockedWrite]).sys = .abort f m :=
  ⟨⟨⟨rfl, rfl, rfl⟩, rfl⟩, rfl, _, _, rfl⟩

theorem svc_flat (va : Word) : svc.FlatAt .read va := ⟨rfl, rfl, rfl, rfl⟩

theorem witness_LoadCompletes :
    viewOf (.ldrRegPost .al true 1#4 0#4 0#5 .lsl 2#4) = .load .word .al .post true 1#4 0#4 (.reg 0#5 .lsl 2#4) ∧
      svc.Executes .svc .al ∧ transferRestriction .post 1#4 (.reg 0#5 .lsl 2#4) = none ∧
      svc.FlatAt .read (transferAddress svc .svc .post true 1#4 (.reg 0#5 .lsl 2#4)) ∧
      misaligned svc.cp15 .word (transferAddress svc .svc .post true 1#4 (.reg 0#5 .lsl 2#4)) = false :=
  ⟨rfl, svc_executes, rfl, svc_flat _, rfl⟩

theorem witness_LoadCompletes_pc : viewOf (.ldrImmPre .al true false 1#4 15#4 0#12) =
      .load .word .al (.pre false) true 1#4 15#4 (.imm 0#12) ∧ svc.Executes .svc .al ∧
      transferRestriction (.pre false) 1#4 (.imm 0#12) = none ∧
      svc.FlatAt .read (transferAddress svc .svc (.pre false) true 1#4 (.imm 0#12)) ∧
      misaligned svc.cp15 .word (transferAddress svc .svc (.pre false) true 1#4 (.imm 0#12)) = false :=
  ⟨rfl, svc_executes, rfl, svc_flat _, rfl⟩

theorem witness_LoadDelivers : viewOf (.ldrtImm .al true 1#4 0#4 4#12) = .load .word .al .postUser true 1#4 0#4 (.imm 4#12) ∧
    svc.Executes .svc .al ∧ transferRestriction .postUser 1#4 (.imm 4#12) = none ∧
    ∃ v m, memRead svc.cp15 .word (transferAddress svc .svc .postUser true 1#4 (.imm 4#12)) (Indexing.postUser.privilege .svc)
      svc.sys = .ok v m := ⟨rfl, svc_executes, rfl, _, _, rfl⟩

/-- With MMU and cache on, to another register with write-back, and to the pc. -/
theorem witness_LoadDelivers_mapped :
    viewOf (.ldrImmPre .al true true 1#4 0#4 4#12) = .load .word .al (.pre true) true 1#4 0#4 (.imm 4#12) ∧
    viewOf (.ldrImmPre .al true true 1#4 15#4 4#12) = .load .word .al (.pre true) true 1#4 15#4 (.imm 4#12) ∧
    mapped.Executes .svc .al ∧ transferRestriction (.pre true) 1#4 (.imm 4#12) = none ∧
    (Indexing.pre true).writesBack = true ∧ (0#4 : RegNo) ≠ 1#4 ∧
    ∃ v m, memRead mapped.cp15 .word (transferAddress mapped .svc (.pre true) true 1#4 (.imm 4#12))
      ((Indexing.pre true).privilege .svc) mapped.sys = .ok v m :=
  ⟨rfl, rfl, mapped_executes, rfl, rfl, by decide, _, _, rfl⟩

theorem witness_LoadAborts : viewOf (.ldrImmPre .al true true 1#4 0#4 4#12) =
      .load .word .al (.pre true) true 1#4 0#4 (.imm 4#12) ∧ (withAbort svc 0x1004 [.read]).Executes .svc .al ∧
      transferRestriction (.pre true) 1#4 (.imm 4#12) = none ∧
      ∃ f m, memRead (withAbort svc 0x1004 [.read]).cp15 .word
        (transferAddress (withAbort svc 0x1004 [.read]) .svc (.pre true) true 1#4 (.imm 4#12)) ((Indexing.pre true).privilege .svc)
        (withAbort svc 0x1004 [.read]).sys = .abort f m := ⟨rfl, ⟨⟨rfl, rfl, rfl⟩, rfl⟩, rfl, _, _, rfl⟩

theorem witness_StoreCompletes : viewOf (.strbImmPost .al true 1#4 2#4 1#12) =
      .store .byte .al .post true 1#4 2#4 (.imm 1#12) ∧ svc.Executes .svc .al ∧
      transferRestriction .post 1#4 (.imm 1#12) = none ∧ svc.cp15.mmuOn = false ∧
      svc.sys.asserts .write (transferAddress svc .svc .post true 1#4 (.imm 1#12)) = false ∧
      misaligned svc.cp15 .byte (transferAddress svc .svc .post true 1#4 (.imm 1#12)) = false :=
  ⟨rfl, svc_executes, rfl, rfl, rfl, rfl⟩

/-- The second clause: a buffered store with the MMU on. -/
theorem witness_StoreCompletes_mapped : viewOf (.strImmPre .al true true 1#4 2#4 4#12) =
      .store .word .al (.pre true) true 1#4 2#4 (.imm 4#12) ∧ mapped.Executes .svc .al ∧
      transferRestriction (.pre true) 1#4 (.imm 4#12) = none ∧ baseIsData (.pre true) 1#4 2#4 = false ∧
      (∃ m, memWrite mapped.cp15 .single .word (transferAddress mapped .svc (.pre true) true 1#4 (.imm 4#12))
        ((Indexing.pre true).privilege .svc) (storedValue mapped .svc 2#4) mapped.sys = .ok () m ∧ m.wbuf.length = 1) ∧
      ∃ tr m1, Machine.translate mapped.cp15 (transferAddress mapped .svc (.pre true) true 1#4 (.imm 4#12)) true
        ((Indexing.pre true).privilege .svc) mapped.sys = .ok tr m1 ∧ mapped.sys.asserts .write tr.pa = false :=
  ⟨rfl, mapped_executes, rfl, rfl, ⟨_, rfl, rfl⟩, _, _, rfl, rfl⟩

theorem witness_StoreFrame : viewOf (.strImmPre .al true true 1#4 2#4 4#12) =
      .store .word .al (.pre true) true 1#4 2#4 (.imm 4#12) ∧ svc.Executes .svc .al ∧
      baseIsData (.pre true) 1#4 2#4 = false ∧ (∃ t, exec (.strImmPre .al true true 1#4 2#4 4#12) svc = .next t) ∧
      ∃ tr m1, Machine.translate svc.cp15 (transferAddress svc .svc (.pre true) true 1#4 (.imm 4#12)) true
        ((Indexing.pre true).privilege .svc) svc.sys = .ok tr m1 :=
  ⟨rfl, svc_executes, rfl, ⟨_, rfl⟩, _, _, rfl⟩

/-- A state with the MMU on and empty tables: every translation faults. -/
def unmapped : State := withControl svc 0x31#32

theorem witness_StoreAborts : viewOf (.strImmPre .al true true 1#4 2#4 4#12) =
      .store .word .al (.pre true) true 1#4 2#4 (.imm 4#12) ∧ unmapped.Executes .svc .al ∧
      transferRestriction (.pre true) 1#4 (.imm 4#12) = none ∧ baseIsData (.pre true) 1#4 2#4 = false ∧
      (∃ f m, memWrite unmapped.cp15 .single .word (transferAddress unmapped .svc (.pre true) true 1#4 (.imm 4#12))
        ((Indexing.pre true).privilege .svc) (storedValue unmapped .svc 2#4) unmapped.sys = .abort f m) ∧
      ∀ tr m1, Machine.translate unmapped.cp15 (transferAddress unmapped .svc (.pre true) true 1#4 (.imm 4#12)) true
        ((Indexing.pre true).privilege .svc) unmapped.sys ≠ .ok tr m1 :=
  ⟨rfl, ⟨⟨rfl, rfl, rfl⟩, rfl⟩, rfl, rfl, ⟨_, _, rfl⟩, fun _ _ => by
    rw [show Machine.translate unmapped.cp15 (transferAddress unmapped .svc (.pre true) true 1#4 (.imm 4#12)) true
      ((Indexing.pre true).privilege .svc) unmapped.sys = .abort _ _ from rfl]
    exact fun h => by cases h⟩

/-- The default state with alignment faults on and the bases R1 and R2 off a word boundary. -/
def oddBase : State := withControl (start 0xD3#32 [(.r1, 0x1001#32), (.r2, 0x1003#32)] []) 0x32#32

/-- One instruction of each form. -/
theorem witness_AlignmentFault : oddBase.Executes .svc .al ∧ oddBase.cp15.control.getLsbD 1 = true ∧
    (viewOf (.ldrImmPre .al true false 1#4 0#4 0#12) = .load .word .al (.pre false) true 1#4 0#4 (.imm 0#12) ∧
      transferRestriction (.pre false) 1#4 (.imm 0#12) = none ∧
      (transferAddress oddBase .svc (.pre false) true 1#4 (.imm 0#12)).toNat % 4 ≠ 0) ∧
    (viewOf (.strImmPost .al true 2#4 0#4 4#12) = .store .word .al .post true 2#4 0#4 (.imm 4#12) ∧
      transferRestriction .post 2#4 (.imm 4#12) = none ∧
      (transferAddress oddBase .svc .post true 2#4 (.imm 4#12)).toNat % 4 ≠ 0) ∧
    (viewOf (.swp .al 1#4 0#4 2#4) = .swap .word .al 1#4 0#4 2#4 ∧ (oddBase.read .svc 1#4 8#32).toNat % 4 ≠ 0) ∧
    (viewOf (.ldm .al false true true 1#4 5#15) = .ldm .al false true true 1#4 (0#1 ++ 5#15) ∧
      (blockStart false true (oddBase.read .svc 1#4 8#32) (0#1 ++ 5#15)).toNat % 4 ≠ 0) ∧
    (viewOf (.ldmPcRestore .al false true true 1#4 5#15) = .ldmRestore .al false true true 1#4 (1#1 ++ 5#15) ∧
      (blockStart false true (oddBase.read .svc 1#4 8#32) (1#1 ++ 5#15)).toNat % 4 ≠ 0) ∧
    viewOf (.ldmUser .al false true false 1#4 5#15) = .ldmUser .al false true false 1#4 (0#1 ++ 5#15) ∧
    (viewOf (.stm .al true false true 2#4 5#16) = .stm .al true false true 2#4 5#16 ∧
      (blockStart true false (oddBase.read .svc 2#4 8#32) 5#16).toNat % 4 ≠ 0) ∧
    viewOf (.stmUser .al true false false 2#4 5#16) = .stmUser .al true false false 2#4 5#16 ∧ Mode.svc ≠ .usr :=
  ⟨⟨⟨rfl, rfl, rfl⟩, rfl⟩, rfl, ⟨rfl, rfl, by decide⟩, ⟨rfl, rfl, by decide⟩, ⟨rfl, by decide⟩, ⟨rfl, by decide⟩,
    ⟨rfl, by decide⟩, rfl, ⟨rfl, by decide⟩, rfl, by decide⟩

/-- An entry for the section at 0: domain 0, AP = 01. -/
def systemOnly : TlbEntry :=
  { map := .sectionMap 0#12 0#12 1#2, domain := 0#4, cacheable := false, bufferable := false }

/-- The MMU on, domain 0 a client, that entry in the TLB. -/
def protectedState : State :=
  withTlb { svc with cp15 := { Cp15.reset with control := 0x31#32, dac := 1#32 } } systemOnly

theorem witness_UserTransferPrivilege :
    (viewOf (.strtImm .al true 1#4 2#4 4#12) = .load .word .al .postUser true 1#4 2#4 (.imm 4#12) ∨
      viewOf (.strtImm .al true 1#4 2#4 4#12) = .store .word .al .postUser true 1#4 2#4 (.imm 4#12)) ∧
    protectedState.Executes .svc .al ∧ transferRestriction .postUser 1#4 (.imm 4#12) = none ∧
    protectedState.cp15.mmuOn = true ∧ misaligned protectedState.cp15 .word (protectedState.read .svc 1#4 8#32) = false ∧
    protectedState.sys.tlbMatches (protectedState.read .svc 1#4 8#32) = [systemOnly] ∧
    protectedState.cp15.domainAccess systemOnly.domain = 1#2 ∧
    systemOnly.map.permission (protectedState.read .svc 1#4 8#32) = 1#2 ∧
    (protectedState.cp15.system && protectedState.cp15.rom) = false :=
  ⟨.inr rfl, ⟨⟨rfl, rfl, rfl⟩, rfl⟩, rfl, rfl, rfl, by decide, rfl, rfl, rfl⟩

theorem witness_LoadMultipleCompletes : viewOf (.ldmPc .al true false true 1#4 1#15) =
      .ldm .al true false true 1#4 (1#1 ++ 1#15) ∧ svc.Executes .svc .al ∧ (1#4 : RegNo) ≠ 15#4 ∧
      (1#1 ++ 1#15 : BitVec 16) ≠ 0#16 ∧
      (∀ r, listed (1#1 ++ 1#15) r → svc.FlatAt .read (blockAddress svc .svc true false 1#4 (1#1 ++ 1#15) r) ∧
        misaligned svc.cp15 .word (blockAddress svc .svc true false 1#4 (1#1 ++ 1#15) r) = false) ∧
      listed (1#1 ++ 1#15) 15#4 ∧ ¬ listed (1#1 ++ 1#15) 1#4 :=
  ⟨rfl, svc_executes, by decide, by decide, fun _ _ => ⟨svc_flat _, rfl⟩, by unfold listed; decide, by unfold listed; decide⟩

theorem witness_LoadMultipleCompletes_next : viewOf (.ldm .al false true false 1#4 3#15) =
      .ldm .al false true false 1#4 (0#1 ++ 3#15) ∧ svc.Executes .svc .al ∧ (0#1 ++ 3#15 : BitVec 16) ≠ 0#16 ∧
      ¬ listed (0#1 ++ 3#15) 15#4 := ⟨rfl, svc_executes, by decide, by unfold listed; decide⟩

/-- The second clause of the three, with MMU and cache on. -/
theorem witness_LoadMultiple_mapped : mapped.Executes .svc .al ∧ Mode.svc ≠ .usr ∧
    (∃ ws m, readBlock mapped.cp15 Mode.svc.privileged (listAddresses mapped .svc false true 1#4 (0#1 ++ 0x6000#15)) mapped.sys =
      .done ws m) ∧
    (∃ ws m, readBlock mapped.cp15 Mode.svc.privileged (listAddresses mapped .svc false true 1#4 (1#1 ++ 1#15)) mapped.sys =
      .done ws m) ∧ ((listRegisters (0#1 ++ 0x6000#15)).zip [7#32, 8#32]).lookup 14#4 = some 8#32 :=
  ⟨mapped_executes, by decide, ⟨_, _, rfl⟩, ⟨_, _, rfl⟩, by decide⟩

theorem witness_LoadMultipleRestores : viewOf (.ldmPcRestore .al false true true 1#4 0#15) =
      .ldmRestore .al false true true 1#4 (1#1 ++ 0#15) ∧ svc.Executes .svc .al ∧ Mode.svc ≠ .usr ∧ (1#4 : RegNo) ≠ 15#4 ∧
      ∀ r, listed (1#1 ++ 0#15) r → svc.FlatAt .read (blockAddress svc .svc false true 1#4 (1#1 ++ 0#15) r) ∧
        misaligned svc.cp15 .word (blockAddress svc .svc false true 1#4 (1#1 ++ 0#15) r) = false :=
  ⟨rfl, svc_executes, by decide, by decide, fun _ _ => ⟨svc_flat _, rfl⟩⟩

theorem witness_LoadMultipleUserBank : viewOf (.ldmUser .al false true false 1#4 0x6000#15) =
      .ldmUser .al false true false 1#4 (0#1 ++ 0x6000#15) ∧ svc.Executes .svc .al ∧ Mode.svc ≠ .usr ∧
      (1#4 : RegNo) ≠ 15#4 ∧ (0#1 ++ 0x6000#15 : BitVec 16) ≠ 0#16 ∧
      ∀ r, listed (0#1 ++ 0x6000#15) r → svc.FlatAt .read (blockAddress svc .svc false true 1#4 (0#1 ++ 0x6000#15) r) ∧
        misaligned svc.cp15 .word (blockAddress svc .svc false true 1#4 (0#1 ++ 0x6000#15) r) = false :=
  ⟨rfl, svc_executes, by decide, by decide, by decide, fun _ _ => ⟨svc_flat _, rfl⟩⟩

theorem witness_StoreMultipleCompletes : viewOf (.stm .al false true true 1#4 0x8003#16) =
      (if false then .stmUser .al false true true 1#4 0x8003#16 else .stm .al false true true 1#4 0x8003#16) ∧
      svc.Executes .svc .al ∧ (1#4 : RegNo) ≠ 15#4 ∧ (0x8003#16 : BitVec 16) ≠ 0#16 ∧
      (false = true → Mode.svc ≠ .usr ∧ true = false) ∧ svc.cp15.mmuOn = false ∧
      (∀ r, listed 0x8003#16 r → svc.sys.asserts .write (blockAddress svc .svc false true 1#4 0x8003#16 r) = false ∧
        misaligned svc.cp15 .word (blockAddress svc .svc false true 1#4 0x8003#16 r) = false) ∧
      listed 0x8003#16 1#4 ∧ ∃ q : RegNo, listed 0x8003#16 q ∧ q.toNat < (1#4 : RegNo).toNat :=
  ⟨rfl, svc_executes, by decide, by decide, (fun h => nomatch h), rfl, fun _ _ => ⟨rfl, rfl⟩, rfl, 0#4, rfl, by decide⟩

theorem witness_StoreMultipleCompletes_user : viewOf (.stmUser .al true false false 1#4 0x6001#16) =
      (if true then .stmUser .al true false false 1#4 0x6001#16 else .stm .al true false false 1#4 0x6001#16) ∧
      svc.Executes .svc .al ∧ (true = true → Mode.svc ≠ .usr ∧ false = false) ∧ svc.cp15.mmuOn = false ∧
      ∀ r, listed 0x6001#16 r → svc.sys.asserts .write (blockAddress svc .svc true false 1#4 0x6001#16 r) = false ∧
        misaligned svc.cp15 .word (blockAddress svc .svc true false 1#4 0x6001#16 r) = false :=
  ⟨rfl, svc_executes, fun _ => ⟨by decide, rfl⟩, rfl, fun _ _ => ⟨rfl, rfl⟩⟩

/-- The second clause, with the MMU on. -/
theorem witness_StoreMultipleCompletes_mapped : mapped.Executes .svc .al ∧
    (∃ m, writeBlock mapped.cp15 Mode.svc.privileged .single (blockTransfers mapped .svc .svc false true true 1#4 5#16)
      mapped.sys = .ok () m) ∧
    ∃ m, writeBlock mapped.cp15 Mode.svc.privileged .single (blockTransfers mapped .svc .usr true false false 1#4 0x6000#16)
      mapped.sys = .ok () m := ⟨mapped_executes, ⟨_, rfl⟩, _, rfl⟩

/-- With the MMU off and on; the places of the transfers with it on. -/
theorem witness_StoreMultipleFrame : viewOf (.stm .al false true true 1#4 5#16) =
      (if false then .stmUser .al false true true 1#4 5#16 else .stm .al false true true 1#4 5#16) ∧
      svc.Executes .svc .al ∧ svc.cp15.mmuOn = false ∧ (∃ t, exec (.stm .al false true true 1#4 5#16) svc = .next t) ∧
      mapped.Executes .svc .al ∧ (∃ t, exec (.stm .al false true true 1#4 5#16) mapped = .next t) ∧
      blockPlaces mapped.cp15 Mode.svc.privileged .single (blockTransfers mapped .svc .svc false true true 1#4 5#16)
        mapped.sys = [0x00301000#32, 0x00301004#32] :=
  ⟨rfl, svc_executes, rfl, ⟨_, rfl⟩, mapped_executes, ⟨_, rfl⟩, by decide⟩

/-- The second transfer aborts, in both forms. -/
theorem witness_StoreMultipleAborts : viewOf (.stm .al false true true 1#4 5#16) =
      (if false then .stmUser .al false true true 1#4 5#16 else .stm .al false true true 1#4 5#16) ∧
      (withAbort svc 0x1004 [.write]).Executes .svc .al ∧ (1#4 : RegNo) ≠ 15#4 ∧ (5#16 : BitVec 16) ≠ 0#16 ∧
      (false = true → Mode.svc ≠ .usr ∧ true = false) ∧
      (∃ f m, writeBlock (withAbort svc 0x1004 [.write]).cp15 Mode.svc.privileged .single
        (blockTransfers (withAbort svc 0x1004 [.write]) .svc .svc false true true 1#4 5#16)
        (withAbort svc 0x1004 [.write]).sys = .abort f m) ∧
      viewOf (.stmUser .al false true false 1#4 5#16) =
        (if true then .stmUser .al false true false 1#4 5#16 else .stm .al false true false 1#4 5#16) ∧
      (true = true → Mode.svc ≠ .usr ∧ false = false) ∧
      ∃ f m, writeBlock (withAbort svc 0x1004 [.write]).cp15 Mode.svc.privileged .single
        (blockTransfers (withAbort svc 0x1004 [.write]) .svc .usr false true false 1#4 5#16)
        (withAbort svc 0x1004 [.write]).sys = .abort f m :=
  ⟨rfl, ⟨⟨rfl, rfl, rfl⟩, rfl⟩, by decide, by decide, (fun h => nomatch h), ⟨_, _, rfl⟩, rfl, fun _ => ⟨by decide, rfl⟩, _, _, rfl⟩

/-- A state whose second word of a block load aborts. -/
def halfAborting : State := withAbort svc 0x1004 [.read]

theorem witness_LoadMultipleAborts : halfAborting.Executes .svc .al ∧ (1#4 : RegNo) ≠ 15#4 ∧
    (0#1 ++ 3#15 : BitVec 16) ≠ 0#16 ∧ viewOf (.ldm .al false true true 1#4 3#15) = .ldm .al false true true 1#4 (0#1 ++ 3#15) ∧
    viewOf (.ldmUser .al false true false 1#4 3#15) = .ldmUser .al false true false 1#4 (0#1 ++ 3#15) ∧ Mode.svc ≠ .usr ∧
    ∃ ws f m, readBlock halfAborting.cp15 Mode.svc.privileged (listAddresses halfAborting .svc false true 1#4 (0#1 ++ 3#15))
      halfAborting.sys = .aborted ws f m ∧ ws = [0x11#32] :=
  ⟨⟨⟨rfl, rfl, rfl⟩, rfl⟩, by decide, by decide, rfl, rfl, by decide, _, _, _, rfl, by decide⟩

theorem witness_LoadMultipleAborts_restore :
    viewOf (.ldmPcRestore .al false true true 1#4 1#15) = .ldmRestore .al false true true 1#4 (1#1 ++ 1#15) ∧
    ∃ ws f m, readBlock halfAborting.cp15 Mode.svc.privileged (listAddresses halfAborting .svc false true 1#4 (1#1 ++ 1#15))
      halfAborting.sys = .aborted ws f m := ⟨rfl, _, _, _, rfl⟩

theorem witness_BranchCompletes :
    viewOf (.bl .al 0xFFFFFE#24) = (if true then .branchLink .al 0xFFFFFE#24 else .branch .al 0xFFFFFE#24) ∧
      viewOf (.b .al 0x800000#24) = (if false then .branchLink .al 0x800000#24 else .branch .al 0x800000#24) ∧
      svc.Executes .svc .al ∧ isAligned svc.pc = true := ⟨rfl, rfl, svc_executes, rfl⟩

theorem witness_TrapsTaken : svc.Executes .svc .al ∧ usr.Executes .usr .al ∧ viewOf (.swi .al 5#24) = .swi .al ∧
    viewOf (.cdp .al 0#4 0#4 0#4 15#4 0#3 0#4) = .trap .al ∧
    viewOf (.mrcId .al 1#3 0#4 0#3 0#4) = .cp15Read .al false 0#4 .id ∧
    viewOf (.mcrDac .al 0#3 0#4 0#3 0#4) = .cp15Write .al true 0#4 .dac :=
  ⟨svc_executes, usr_executes, rfl, rfl, rfl, rfl⟩

theorem witness_InterruptsTaken_fiq : (withInputs usr true true false).popInputs.1.reset = false ∧
    (withInputs usr true true false).Runs .usr ∧ (withInputs usr true true false).popInputs.1.fiq = true ∧
    (withInputs usr true true false).cpsr.getLsbD 6 = false := ⟨rfl, ⟨rfl, rfl, rfl⟩, rfl, rfl⟩

theorem witness_InterruptsTaken_irq : (withInputs (usr.setCpsr 0x50#32) true true false).popInputs.1.reset = false ∧
    (withInputs (usr.setCpsr 0x50#32) true true false).Runs .usr ∧
    (withInputs (usr.setCpsr 0x50#32) true true false).cpsr.getLsbD 6 = true ∧
    (withInputs (usr.setCpsr 0x50#32) true true false).popInputs.1.irq = true ∧
    (withInputs (usr.setCpsr 0x50#32) true true false).cpsr.getLsbD 7 = false := ⟨rfl, ⟨rfl, rfl, rfl⟩, rfl, rfl, rfl⟩

theorem witness_PrefetchAbortTaken : (withAbort svc 0x8000 [.read]).popInputs.1.reset = false ∧
    (withAbort svc 0x8000 [.read]).Runs .svc ∧
    pendingInterrupt (withAbort svc 0x8000 [.read]).popInputs.1 (withAbort svc 0x8000 [.read]) = none ∧
    (fetchedState (withAbort svc 0x8000 [.read])).head = .aborted := ⟨rfl, ⟨rfl, rfl, rfl⟩, rfl, by decide⟩

theorem witness_ReturnUndoesEntry : usr.Runs .usr ∧ isAligned usr.pc = true := ⟨⟨rfl, rfl, rfl⟩, rfl⟩

theorem witness_Cp15Reads : viewOf (.mrcFsr .al 0#3 15#4 0#3 0#4) = .cp15Read .al true 15#4 .fsr ∧
    viewOf (.mrcId .al 0#3 14#4 0#3 0#4) = .cp15Read .al true 14#4 .id ∧
    viewOf (.mrcC7 .al 0#3 0#4 0#3 0#4) = .cp15Read .al true 0#4 .invalid ∧
    viewOf (.mrcFar .al 0#3 0#4 0#3 0#4) = .cp15Read .al true 0#4 .far ∧ svc.Executes .svc .al ∧ Mode.svc ≠ .usr :=
  ⟨rfl, rfl, rfl, rfl, svc_executes, by decide⟩

/-- A state with a value in R0 that every MCR accepts: bits [31:14] alone. -/
def mcrState (v : Word) : State := start 0xD3#32 [(.r0, v)] []

theorem witness_Cp15Writes_control : viewOf (.mcrControl .al 0#3 0#4 0#3 0#4) = .cp15Write .al true 0#4 .control ∧
    (mcrState 0x7FF#32).Executes .svc .al ∧ Mode.svc ≠ .usr ∧
    (0x7FF#32 : Word) = (if (0#4 : RegNo) = 15#4 then (mcrState 0x7FF#32).pc + 12#32 else (mcrState 0x7FF#32).read .svc 0#4 12#32) ∧
    ((0x7FF#32 : Word).extractLsb' 11 21 = 0#21 ∧
      (((0x7FF#32 : Word).getLsbD 2 || (0x7FF#32 : Word).getLsbD 3) = true → (0x7FF#32 : Word).getLsbD 0 = true)) :=
  ⟨rfl, ⟨⟨rfl, rfl, rfl⟩, rfl⟩, by decide, by decide, by decide⟩

theorem witness_Cp15Writes_tables : viewOf (.mcrTtb .al 0#3 0#4 0#3 0#4) = .cp15Write .al true 0#4 .ttb ∧
    viewOf (.mcrDac .al 0#3 0#4 0#3 0#4) = .cp15Write .al true 0#4 .dac ∧
    viewOf (.mcrPurgeTlb .al 0#3 0#4 0#3 0#4) = .cp15Write .al true 0#4 .purgeTlb ∧
    viewOf (.mcrC4 .al 0#3 0#4 0#3 0#4) = .cp15Write .al true 0#4 .invalid ∧ (mcrState 0xFFFFC000#32).Executes .svc .al ∧
    (0xFFFFC000#32 : Word) =
      (if (0#4 : RegNo) = 15#4 then (mcrState 0xFFFFC000#32).pc + 12#32 else (mcrState 0xFFFFC000#32).read .svc 0#4 12#32) ∧
    (0xFFFFC000#32 : Word).extractLsb' 0 14 = 0#14 ∧ (0xFFFFC000#32 : Word).extractLsb' 0 12 = 0#12 :=
  ⟨rfl, rfl, rfl, rfl, ⟨⟨rfl, rfl, rfl⟩, rfl⟩, by decide, by decide, by decide⟩

theorem witness_FlushAndPurge : protectedState.Executes .svc .al ∧ Mode.svc ≠ .usr ∧
    viewOf (.mcrFlushTlb .al 0#3 0#4 0#3 0#4) = .cp15Write .al true 0#4 .flushTlb ∧
    (∃ t, exec (.mcrFlushTlb .al 0#3 0#4 0#3 0#4) protectedState = .next t) ∧
    viewOf (.mcrPurgeTlb .al 0#3 0#4 0#3 0#4) = .cp15Write .al true 0#4 .purgeTlb ∧
    (∃ t, exec (.mcrPurgeTlb .al 0#3 0#4 0#3 0#4) protectedState = .next t) ∧
    viewOf (.mcrFlushIdc .al 0#3 0#4 0#3 0#4) = .cp15Write .al true 0#4 .flushIdc ∧
    ∃ t, exec (.mcrFlushIdc .al 0#3 0#4 0#3 0#4) protectedState = .next t :=
  ⟨⟨⟨rfl, rfl, rfl⟩, rfl⟩, by decide, rfl, ⟨_, rfl⟩, rfl, ⟨_, rfl⟩, rfl, _, rfl⟩

/-- Rules R248, R291 to R293, R304, R322, R323, R373: one instruction for each clause. -/
theorem witness_RestrictionsRefused : svc.Executes .svc .al ∧ usr.Executes .usr .al ∧
    viewOf (.andShReg .al false 1#4 2#4 15#4 .lsl 3#4) = .dp .and .al false 1#4 2#4 (.shReg 15#4 .lsl 3#4) ∧
    viewOf (.mrs .al .cpsr 15#4) = .mrs .al .cpsr 15#4 ∧ viewOf (.mrs .al .spsr 0#4) = .mrs .al .spsr 0#4 ∧
    viewOf (.msrPsr .al .cpsr 15#4) = .msr .al .cpsr 15#4 ∧ viewOf (.msrPsr .al .spsr 0#4) = .msr .al .spsr 0#4 ∧
    (viewOf (.msrFlagsReg .al .cpsr 15#4) = .msrFlags .al .cpsr (.reg 15#4) ∧ (FlagSource.reg 15#4).isR15 = true) ∧
    viewOf (.msrFlagsImm .al .spsr 2#4 15#8) = .msrFlags .al .spsr (.imm 2#4 15#8) ∧
    viewOf (.mul .al false 15#4 0#4 1#4 2#4) = .mul .al false 15#4 1#4 2#4 ∧
    viewOf (.mla .al false 1#4 15#4 1#4 2#4) = .mla .al false 1#4 15#4 1#4 2#4 ∧
    viewOf (.swp .al 15#4 0#4 1#4) = .swap .word .al 15#4 0#4 1#4 ∧
    (viewOf (.ldrImmPost .al true 15#4 0#4 0#12) = .load .word .al .post true 15#4 0#4 (.imm 0#12) ∧
      Indexing.post.writesBack = true) ∧
    viewOf (.ldrRegPre .al true false 1#4 0#4 0#5 .lsl 15#4) = .load .word .al (.pre false) true 1#4 0#4 (.reg 0#5 .lsl 15#4) ∧
    (viewOf (.strRegPost .al true 1#4 0#4 0#5 .lsl 1#4) = .store .word .al .post true 1#4 0#4 (.reg 0#5 .lsl 1#4) ∧
      Indexing.post.isPre = false) :=
  ⟨svc_executes, usr_executes, rfl, rfl, rfl, rfl, rfl, ⟨rfl, rfl⟩, rfl, rfl, rfl, rfl, ⟨rfl, rfl⟩, rfl, rfl, rfl⟩

/-- Rules R349 to R353, R177, R398, R402, R403, R406, R411: one instruction for each clause. -/
theorem witness_BlockAndCp15RestrictionsRefused : svc.Executes .svc .al ∧ usr.Executes .usr .al ∧ Mode.svc ≠ .usr ∧
    viewOf (.stm .al false true false 15#4 1#16) = .stm .al false true false 15#4 1#16 ∧
    viewOf (.ldm .al false true false 1#4 0#15) = .ldm .al false true false 1#4 (0#1 ++ 0#15) ∧
    (0#1 ++ 0#15 : BitVec 16) = 0#16 ∧
    viewOf (.stmUser .al false true true 1#4 1#16) = .stmUser .al false true true 1#4 1#16 ∧
    viewOf (.mrcId .al 0#3 0#4 1#3 0#4) = .cp15Read .al false 0#4 .id ∧
    viewOf (.mcrTtb .al 0#3 0#4 0#3 9#4) = .cp15Write .al false 0#4 .ttb ∧
    (viewOf (.mcrControl .al 0#3 0#4 0#3 0#4) = .cp15Write .al true 0#4 .control ∧ (mcrState 0x800#32).Executes .svc .al ∧
      ((mcrState 0x800#32).read .svc 0#4 12#32).extractLsb' 11 21 ≠ 0#21) ∧
    (viewOf (.mcrPurgeTlb .al 0#3 0#4 0#3 0#4) = .cp15Write .al true 0#4 .purgeTlb ∧
      ((mcrState 0x800#32).read .svc 0#4 12#32).extractLsb' 0 12 ≠ 0#12 ∧
      ((mcrState 0x800#32).read .svc 0#4 12#32).extractLsb' 0 14 ≠ 0#14) ∧
    ((mcrState 0x34#32).Executes .svc .al ∧ ((mcrState 0x34#32).read .svc 0#4 12#32).extractLsb' 11 21 = 0#21 ∧
      (((mcrState 0x34#32).read .svc 0#4 12#32).getLsbD 2 || ((mcrState 0x34#32).read .svc 0#4 12#32).getLsbD 3) = true ∧
      ((mcrState 0x34#32).read .svc 0#4 12#32).getLsbD 0 = false) :=
  ⟨svc_executes, usr_executes, by decide, rfl, rfl, rfl, rfl, rfl, rfl, ⟨rfl, ⟨⟨rfl, rfl, rfl⟩, rfl⟩, by decide⟩,
    ⟨rfl, by decide, by decide⟩, ⟨⟨rfl, rfl, rfl⟩, rfl⟩, by decide, by decide, by decide⟩

/-- The MMU on, tables at 0x4000, domain 0 a manager, domain 1 a client. -/
def tables : Cp15 := { Cp15.reset with control := 0x31#32, ttb := 0x4000#32, dac := 7#32 }

/-- Memory whose first level descriptor for address 0 is `l1` and whose second level descriptor there, at 0x6000, is `l2`. -/
def tableMem (l1 l2 : Word) : MemSys := (start 0xD3#32 [] [(0x4000, l1), (0x6000, l2)]).sys

/-- What `TableTranslation` asks of memory, but for the level two fetch. -/
def tableHyps (l1 l2 : Word) : Bool :=
  tables.mmuOn && ((tableMem l1 l2).tlbMatches 0#32).isEmpty &&
    !(tableMem l1 l2).asserts .level1 (tables.ttb.extractLsb' 14 18 ++ (0#32 : Word).extractLsb' 20 12 ++ 0#2 : BitVec 32) &&
    !(tableMem l1 l2).isVolatile (tables.ttb.extractLsb' 14 18 ++ (0#32 : Word).extractLsb' 20 12 ++ 0#2 : BitVec 32) &&
    (l1 == (tableMem l1 l2).physWord (tables.ttb.extractLsb' 14 18 ++ (0#32 : Word).extractLsb' 20 12 : BitVec 30).toNat)

/-- The same for the level two fetch. -/
def pageHyps (l1 l2 : Word) : Bool :=
  tableHyps l1 l2 && l1.extractLsb' 0 2 == 1#2 &&
    !(tableMem l1 l2).asserts .level2 (l1.extractLsb' 10 22 ++ (0#32 : Word).extractLsb' 12 8 ++ 0#2 : BitVec 32) &&
    !(tableMem l1 l2).isVolatile (l1.extractLsb' 10 22 ++ (0#32 : Word).extractLsb' 12 8 ++ 0#2 : BitVec 32) &&
    (l2 == (tableMem l1 l2).physWord (l1.extractLsb' 10 22 ++ (0#32 : Word).extractLsb' 12 8 : BitVec 30).toNat)

theorem witness_TableTranslation_first :
    tableHyps 0x00100C0E#32 0#32 = true ∧ (0x00100C0E#32 : Word).extractLsb' 0 2 = 2#2 ∧
      tables.domainAccess ((0x00100C0E#32 : Word).extractLsb' 5 4) = 3#2 ∧ tableHyps 4#32 0#32 = true ∧
      tableHyps 3#32 0#32 = true := by decide

theorem witness_TableTranslation_second :
    pageHyps 0x6001#32 0x00120FFD#32 = true ∧ pageHyps 0x6001#32 0x00123FFE#32 = true ∧
      tables.domainAccess ((0x6001#32 : Word).extractLsb' 5 4) = 3#2 ∧ pageHyps 0x6001#32 8#32 = true ∧
      pageHyps 0x6001#32 3#32 = true := by decide

/-- Rules R110, R111, R112: the top and the bottom sub-page of a small page (AP3 = 00, AP0 = 11) and of a large page (AP3 = 01,
AP0 = 10). -/
theorem test_subpages : (smallEntry 0x6001#32 0x0012303E#32 0xC00#32).map.permission 0xC00#32 = 0#2 ∧
    (smallEntry 0x6001#32 0x0012303E#32 0#32).map.permission 0x3FF#32 = 3#2 ∧
    (largeEntry 0x6001#32 0x00120461#32 0xC000#32).map.permission 0xC000#32 = 1#2 ∧
    (largeEntry 0x6001#32 0x00120461#32 0#32).map.permission 0x3FFF#32 = 2#2 := by decide

/-- Rules R113, R114: a domain of each kind, and S = R = 1. -/
theorem witness_AccessChecks :
    (0xE4#32 : Word).extractLsb' (2 * (0#4 : BitVec 4).toNat) 2 = 0#2 ∧
      (0xE4#32 : Word).extractLsb' (2 * (1#4 : BitVec 4).toNat) 2 = 1#2 ∧
      (0xE4#32 : Word).extractLsb' (2 * (2#4 : BitVec 4).toNat) 2 = 2#2 ∧
      (0xE4#32 : Word).extractLsb' (2 * (3#4 : BitVec 4).toNat) 2 = 3#2 ∧
      (0x331#32 : Word).getLsbD 8 = true ∧ (0x331#32 : Word).getLsbD 9 = true ∧
      ¬ ((0x131#32 : Word).getLsbD 8 = true ∧ (0x131#32 : Word).getLsbD 9 = true) := by decide

theorem witness_AccessIsPermitted : protectedState.cp15.mmuOn = true ∧
    (∃ w pa m', fetchWord protectedState.cp15 0x1000#32 true protectedState.sys = (.word w pa, m')) ∧
    (∃ r m', readData protectedState.cp15 .word 0x1000#32 true protectedState.sys = .ok r m') ∧
    (∃ r m', lockedRead protectedState.cp15 .byte 0x1001#32 true protectedState.sys = .ok r m') ∧
    (∃ r m', memRead protectedState.cp15 .word 0x1000#32 true protectedState.sys = .ok r m') ∧
    ∃ m', memWrite protectedState.cp15 .single .word 0x1000#32 true 5#32 protectedState.sys = .ok () m' :=
  ⟨rfl, ⟨_, _, _, rfl⟩, ⟨_, _, rfl⟩, ⟨_, _, rfl⟩, ⟨_, _, rfl⟩, _, rfl⟩

/-- With the MMU off, a word; with MMU, cache and write buffer on, a byte that is still in the write buffer. -/
theorem witness_LoadSeesStore : (Size.word = .word → (0x1004#32 : Word).toNat % 4 = 0) ∧
    (∃ t m0 m1 t' m2, Machine.translate svc.cp15 0x1004#32 true true svc.sys = .ok t m0 ∧
      memWrite svc.cp15 .single .word 0x1004#32 true 0xCAFE#32 svc.sys = .ok () m1 ∧
      Machine.translate svc.cp15 0x1004#32 false false m1 = .ok t' m2 ∧ t'.pa = t.pa ∧ svc.sys.asserts .write t.pa = false ∧
      svc.sys.asserts .read t.pa = false ∧ svc.sys.asserts .linefetch (alignWord t.pa) = false ∧
      svc.sys.isVolatile t.pa = false) ∧ (Size.byte = .word → (0x1007#32 : Word).toNat % 4 = 0) ∧
    ∃ t m0 m1 t' m2, Machine.translate mapped.cp15 0x1007#32 true true mapped.sys = .ok t m0 ∧
      memWrite mapped.cp15 .single .byte 0x1007#32 true 0xCAFE#32 mapped.sys = .ok () m1 ∧ m1.wbuf.length = 1 ∧
      Machine.translate mapped.cp15 0x1007#32 false true m1 = .ok t' m2 ∧ t'.pa = t.pa ∧
      mapped.sys.asserts .write t.pa = false ∧ mapped.sys.asserts .read t.pa = false ∧
      mapped.sys.asserts .linefetch (alignWord t.pa) = false ∧ mapped.sys.isVolatile t.pa = false :=
  ⟨fun _ => by decide, ⟨_, _, _, _, _, rfl, rfl, rfl, rfl, rfl, rfl, rfl, rfl⟩, (fun h => nomatch h),
    _, _, _, _, _, rfl, rfl, rfl, rfl, rfl, rfl, rfl, rfl, rfl⟩

theorem witness_WriteBufferUnseen : svc.sys.isVolatile 0x1000#32 = false := rfl

end Sys2Proof.Tests
end

section
/-! SUPPORT. What every step and every instruction passes first, and what a step makes of the word at the head of the
pipeline: the statements of the spec's scope (O5, O11). -/

namespace Sys2Proof.Machine

/-! ## The gate (rule R6) -/

/-- In a legal mode the gate refuses by name unless Control.P and Control.D are both set (decision D1). -/
theorem State.gate_configuration26 {s : State} {md : Mode} (hm : s.mode = some md)
    (hc : s.cp15.prog32 = false ∨ s.cp15.data32 = false) (body : Mode → Result) :
    s.gate body = .refused .configuration26 := by
  simp only [State.gate, hm]
  rcases hc with hc | hc <;> simp [hc]

/-- Every instruction stands behind the gate and its condition, whatever its family. -/
theorem View.meaning_conditionally (v : View) (s : State) :
    ∃ body, v.meaning s = conditionally v.cond s body := by
  cases v <;> exact ⟨_, rfl⟩

theorem exec_conditionally (i : Instr) (s : State) : ∃ body, exec i s = conditionally i.cond s body := by
  rw [exec_eq_meaning, ← viewOf_cond]
  exact (viewOf i).meaning_conditionally s

theorem exec_configuration26 {s : State} {md : Mode} (hm : s.mode = some md)
    (hc : s.cp15.prog32 = false ∨ s.cp15.data32 = false) (i : Instr) : exec i s = .refused .configuration26 := by
  obtain ⟨body, he⟩ := exec_conditionally i s
  exact he.trans (State.gate_configuration26 hm hc _)

theorem step_configuration26 {s : State} {md : Mode} (hm : s.mode = some md)
    (hc : s.cp15.prog32 = false ∨ s.cp15.data32 = false) (hr : s.popInputs.1.reset = false) :
    step s = .refused .configuration26 := by
  obtain ⟨-, -, hcpsr, -, hcp15, -, -⟩ := s.popInputs_same
  have hm' : (s.popInputs.2.withSys s.popInputs.2.sys.drainSome).mode = some md := by
    rw [← hm, State.mode, State.withSys_cpsr, hcpsr, State.mode]
  rw [← hcp15] at hc
  simp only [step, stepWith, hr, Bool.false_eq_true, if_false]
  exact State.gate_configuration26 hm' hc _

/-! ## The word at the head of the pipeline (rules R14, R63, R181, R201) -/

section
variable {run : Instr → State → Result} {s : State} {w : Word}

theorem executeHead_word {pa : Word} (h : s.head = .word w pa) : executeHead run s = executeWord run w s := by
  simp [executeHead, h]

theorem executeWord_ok {i : Instr} (h : decode w = .ok i) : executeWord run w s = run i s := by
  simp [executeWord, h]

theorem executeWord_error {why : DecodeReject} (h : decode w = .error why) :
    executeWord run w s =
      if conditionHolds (condOf w) s.flags then .refused (.undefinedEncoding why) else .next s.advance := by
  simp [executeWord, h]

end

/-- A step whose pipeline has a word at its head executes that word. -/
theorem step_eq_executeWord {s u : State} {md : Mode} {w pa : Word} (hr : s.popInputs.1.reset = false)
    (hs : s.Runs md) (hi : pendingInterrupt s.popInputs.1 s = none)
    (hu : u = (s.popInputs.2.withSys s.popInputs.2.sys.drainSome).fetched md) (hw : u.head = .word w pa) :
    step s = executeWord exec w u := by
  rw [step_eq_executeHead hr hs hi, ← hu, executeHead_word hw]

/-- Taking the inputs and draining leave alone what a flat access sees: the word in memory, the cache, the places the platform
answers for. -/
theorem State.FlatAt.drained {s : State} {k : BusKind} {va : Word} (h : s.FlatAt k va) :
    (s.popInputs.2.withSys s.popInputs.2.sys.drainSome).FlatAt k va := by
  obtain ⟨hm, hc, ha, hv⟩ := h
  obtain ⟨-, -, -, -, hcp15, hsys, -⟩ := s.popInputs_same
  obtain ⟨kcache, -, kaborts, kvolatile⟩ := s.sys.drainSome_keeps
  simp only [State.FlatAt, State.withSys_cp15, State.withSys_sys, hcp15, hsys]
  refine ⟨hm, ?_, ?_, ?_⟩
  · rw [MemSys.cachedWord, kcache]; exact hc
  · rw [MemSys.asserts, kaborts]; exact ha
  · rw [MemSys.isVolatile, kvolatile]; exact hv

theorem MemSys.Reads.physWord {m m' : MemSys} (h : m.Reads m') (wa : Nat) : m'.physWord wa = m.physWord wa := by
  simp only [MemSys.physWord_eq, h.phys]

/-- With nothing prefetched and a flat fetch, a step finds at the head the word that stands at the pc in memory. -/
theorem State.fetched_head_of_flat {s : State} (md : Mode) (hp : s.sys.pipe = []) (hf : s.FlatAt .read s.pc) :
    ((s.popInputs.2.withSys s.popInputs.2.sys.drainSome).fetched md).head =
      .word (s.sys.physWord (s.pc.toNat / 4)) s.pc := by
  obtain ⟨-, -, -, hpc, -, hsys, -⟩ := s.popInputs_same
  obtain ⟨-, kpipe, -, -⟩ := s.sys.drainSome_keeps
  have hd := hf.drained
  rw [← hpc] at hd
  rw [State.fetched_head (by rw [State.withSys_sys, hsys, kpipe, hp]) hd, State.withSys_sys, State.withSys_pc, hsys,
    hpc, s.sys.drainSome_reads.physWord]

/-- A step that only goes on has drained and fetched, and both only read: the program sees nothing changed but the pc. -/
theorem State.fetched_advance_keeps {s u : State} {md : Mode}
    (hu : u = (s.popInputs.2.withSys s.popInputs.2.sys.drainSome).fetched md) :
    s.KeepsRegs u.advance ∧ u.advance.cpsr = s.cpsr ∧ s.KeepsSpecial u.advance ∧ s.KeepsMemory u.advance ∧
      s.WentOn u.advance := by
  obtain ⟨hread, hpreg, hspsr, hcpsr, hpc, hcp15⟩ := s.fetched_same md
  rw [← hu] at hread hpreg hspsr hcpsr hpc hcp15
  obtain ⟨aregs, acpsr, ⟨aspsr, acp15⟩, amem, apc, ahazard⟩ := u.advance_keeps
  exact ⟨fun p => by rw [aregs, hpreg], acpsr.trans hcpsr, ⟨fun m => by rw [aspsr, hspsr], acp15.trans hcp15⟩,
    fun a => (amem a).trans (hread.phys a), by rw [apc, hpc], ahazard⟩

/-! ## The statements -/

/-- Settles O11: the first part is the gate's refusal, of the step and behind every instruction's condition; the second is what
`executeWord` makes of a word that does not decode. -/
theorem stepRefuses : Obligations.StepRefuses := by
  refine ⟨fun s md hm hc => ⟨step_configuration26 hm hc, exec_configuration26 hm hc⟩, ?_⟩
  intro s u md w pa why hr hs hi hu hw hd
  obtain ⟨-, -, -, hcpsr, -, -⟩ := s.fetched_same md
  have hflags : u.flags = s.flags := by rw [State.flags, hu, hcpsr, State.flags]
  have hstep : step s =
      if conditionHolds (condOf w) s.flags then .refused (.undefinedEncoding why) else .next u.advance := by
    rw [step_eq_executeWord hr hs hi hu hw, executeWord_error hd, hflags]
  constructor
  · intro holds
    rw [hstep, if_pos holds]
  · intro fails
    exact ⟨u.advance, by rw [hstep, fails]; rfl, State.fetched_advance_keeps hu⟩

/-- Settles O5: the step executes the word at the head, and with a flat fetch from an empty pipeline that word is the one at
the pc. -/
theorem stepRunsDecoded : Obligations.StepRunsDecoded := by
  intro s u md i hr hs hi hu
  have runs : ∀ w pa, u.head = .word w pa → decode w = .ok i → step s = exec i u := fun w pa hw hd =>
    (step_eq_executeWord hr hs hi hu hw).trans (executeWord_ok hd)
  exact ⟨runs, fun hp hf => runs _ s.pc (hu ▸ State.fetched_head_of_flat md hp hf)⟩

end Sys2Proof.Machine
end

section
/-! SUPPORT. What reset leaves, the banks of the registers, and the illegal modes: the statements O7, O8, O10, O16. -/

namespace Sys2Proof.Machine

/-! ## The state after reset (rules R70, R490) -/

theorem MemSys.reset_inv : MemSys.reset.Inv := ⟨rfl, rfl, .nil⟩

theorem Cp15.reset_inv : Cp15.reset.Inv := ⟨rfl, rfl, fun _ => ⟨rfl, rfl⟩⟩

/-- Without a valid entry no address has one. -/
theorem MemSys.tlbMatches_of_empty {m : MemSys} (h : m.tlb = Vector.replicate 64 none) (va : Word) :
    m.tlbMatches va = [] := by
  simp [MemSys.tlbMatches, h]

/-- Without a line no address is cached. -/
theorem MemSys.cachedWord_of_empty {m : MemSys} (h : m.cache = []) (va : Word) : m.cachedWord va = none := by
  simp [MemSys.cachedWord, h]

/-- Settles O7: memory, write buffer and cache are empty, Control and the table base 0, the pc 0. -/
theorem resetInv : Obligations.ResetInv := ⟨MemSys.reset_inv, Cp15.reset_inv, rfl⟩

/-- Settles O8: the fields as `State.reset` gives them, and nothing is found in an empty TLB or cache. -/
theorem resetState : Obligations.ResetState :=
  ⟨rfl, rfl, rfl, rfl, rfl, MemSys.tlbMatches_of_empty rfl, MemSys.cachedWord_of_empty rfl, rfl, rfl⟩

/-! ## The register banks (rules R21, R22, R24) -/

/-- Every register number but 15 names a physical register in every mode. -/
theorem Mode.bank_isSome (m : Mode) {n : RegNo} (h : n ≠ 15#4) : ∃ p, m.bank n = some p := by
  rw [← Option.isSome_iff_exists]
  revert n
  cases m <;> decide

/-- The register number under which a physical register is named. -/
def PReg.number (p : PReg) : RegNo :=
  match p with
  | .r0 => 0 | .r1 => 1 | .r2 => 2 | .r3 => 3 | .r4 => 4 | .r5 => 5 | .r6 => 6 | .r7 => 7
  | .r8 | .r8Fiq => 8 | .r9 | .r9Fiq => 9 | .r10 | .r10Fiq => 10 | .r11 | .r11Fiq => 11 | .r12 | .r12Fiq => 12
  | .r13Usr | .r13Fiq | .r13Irq | .r13Svc | .r13Abt | .r13Und => 13
  | .r14Usr | .r14Fiq | .r14Irq | .r14Svc | .r14Abt | .r14Und => 14

/-- A mode names a physical register by its number alone. -/
theorem PReg.number_of_bank {m : Mode} {n : RegNo} {p : PReg} (h : m.bank n = some p) : p.number = n := by
  revert n p
  cases m <;> decide

/-- One number in two modes: the same register for R0 to R7, in one mode, and for R8 to R12 outside FIQ mode. -/
theorem Mode.bank_eq_iff (m m' : Mode) {n : RegNo} (h : n ≠ 15#4) :
    m.bank n = m'.bank n ↔ n.toNat ≤ 7 ∨ m = m' ∨ (n.toNat ≤ 12 ∧ m ≠ .fiq ∧ m' ≠ .fiq) := by
  revert n
  cases m <;> cases m' <;> decide

/-- Two numbers in two modes name one register exactly where the table of rule R24 says so. -/
theorem Mode.bank_same_iff (m m' : Mode) {n n' : RegNo} (h : n ≠ 15#4) :
    m.bank n = m'.bank n' ↔
      n = n' ∧ (n.toNat ≤ 7 ∨ m = m' ∨ (n.toNat ≤ 12 ∧ m ≠ .fiq ∧ m' ≠ .fiq)) := by
  refine ⟨fun e => ?_, fun ⟨e, k⟩ => e ▸ (Mode.bank_eq_iff m m' h).2 k⟩
  obtain ⟨p, hp⟩ := m.bank_isSome h
  have hn : n = n' := (PReg.number_of_bank hp).symm.trans (PReg.number_of_bank (e ▸ hp))
  subst hn
  exact ⟨rfl, (Mode.bank_eq_iff m m' h).1 e⟩

/-- Without a bank hazard a register read is what the physical register holds (rule R512). -/
theorem State.read_of_bank {s : State} {m : Mode} {n : RegNo} {p : PReg} (hz : s.bankHazard = false)
    (h : m.bank n = some p) (ahead : Word) : s.read m n ahead = s.preg p := by
  simp [State.read, State.readAs, h, hz]

/-- Settles O16: a read finds the written value exactly where both names are one physical register. -/
theorem registerBanks : Obligations.RegisterBanks := by
  intro s m m' n n' v ahead hz hn hn'
  refine ⟨?_, rfl⟩
  obtain ⟨p', hp'⟩ := m'.bank_isSome hn'
  rw [State.read_of_bank (by simpa using hz) hp', State.read_of_bank hz hp', State.preg_write, ← hp']
  exact if_congr (Mode.bank_same_iff m m' hn) rfl rfl

/-! ## Illegal modes (rule R37) -/

/-- The legal mode numbers are the six of rule R22. -/
theorem Mode.ofBits_eq_none {b : BitVec 5} (h : b ≠ 0b10000#5 ∧ b ≠ 0b10001#5 ∧ b ≠ 0b10010#5 ∧ b ≠ 0b10011#5 ∧
    b ≠ 0b10111#5 ∧ b ≠ 0b11011#5) : Mode.ofBits b = none := by
  obtain ⟨usr, fiq, irq, svc, abt, und⟩ := h
  simp only [Mode.ofBits, usr, fiq, irq, svc, abt, und, if_false]

/-- Without a legal mode the gate is shut (rule R37). -/
theorem State.gate_illegal {s : State} (h : s.mode = none) (body : Mode → Result) :
    s.gate body = .fault .unrecoverableMode := by
  simp [State.gate, h]

/-- The step with Reset asserted, in every state (rules R432, R490). -/
theorem step_of_reset {s : State} (h : s.popInputs.1.reset = true) : step s = .next s.popInputs.2.resetEntry := by
  simp [step, stepWith, h]

/-- The step without Reset. -/
theorem step_of_running {s : State} (h : s.popInputs.1.reset = false) :
    step s = stepRunning exec s.popInputs.1 (s.popInputs.2.withSys s.popInputs.2.sys.drainSome) := by
  simp [step, stepWith, h]

theorem State.resetEntry_mode (s : State) : s.resetEntry.mode = some .svc := entryPsr_mode s.cpsr .svc true

/-- Settles O10: the gate is shut for the step and for every instruction; Reset does not pass it and leaves a legal mode. -/
theorem illegalModeStuck : Obligations.IllegalModeStuck := by
  intro s h
  have hm : s.mode = none := Mode.ofBits_eq_none h
  refine ⟨fun hr => ?_, fun hr => ⟨_, step_of_reset hr, State.resetEntry_mode _⟩, fun i => ?_⟩
  · obtain ⟨-, -, hcpsr, -, -, -, -⟩ := s.popInputs_same
    rw [step_of_running hr]
    exact State.gate_illegal (by rw [← hm, State.mode, State.withSys_cpsr, hcpsr, State.mode]) _
  · obtain ⟨body, he⟩ := exec_conditionally i s
    exact he.trans (State.gate_illegal hm _)

end Sys2Proof.Machine
end

section
/-! SUPPORT. What an instruction that answers a next state has done, said once for every family (`State.Ends`): it has worked in
its own mode and then gone on, branched or aborted; or it is a trap; or it is privileged.  Two statements follow: every step
keeps the invariant (O6), and User mode is confined (O14). -/

namespace Sys2Proof.Machine

/-! ## Word alignment of the pc (rules R30, R32) -/

theorem isAligned_iff (a : Word) : isAligned a = true ↔ a.toNat % 4 = 0 := by
  simp only [isAligned, beq_iff_eq, ← BitVec.toNat_inj, BitVec.toNat_and]
  exact iff_of_eq (congrArg (· = 0) (Nat.and_two_pow_sub_one_eq_mod a.toNat 2))

theorem isAligned_alignWord (v : Word) : isAligned (alignWord v) = true := by
  simp [isAligned, alignWord, BitVec.and_assoc]

theorem isAligned_add_four {a : Word} (h : isAligned a = true) : isAligned (a + 4#32) = true := by
  rw [isAligned_iff] at h ⊢
  rw [BitVec.toNat_add, BitVec.toNat_ofNat]
  omega

/-! ## What the operations over the state leave of the invariant -/

/-- The invariant speaks of memory, write buffer, cache, coprocessor 15 and pc alone. -/
theorem MemSys.Inv.congr {m m' : MemSys} (h : m.Inv) (hmem : m'.mem = m.mem) (hwbuf : m'.wbuf = m.wbuf)
    (hcache : m'.cache = m.cache) : m'.Inv := by
  unfold MemSys.Inv
  rw [hmem, hwbuf, hcache]
  exact h

theorem State.withSys_inv {s : State} {m : MemSys} (h : s.Inv) (hm : s.sys.Reads m) : (s.withSys m).Inv := by
  obtain ⟨hsys, hcp, hpc⟩ := h
  exact ⟨hm.inv hsys, hcp, hpc⟩

theorem State.advance_inv {s : State} (h : s.Inv) : s.advance.Inv := by
  obtain ⟨hsys, hcp, hpc⟩ := h
  exact ⟨hsys.congr (by simp) (by simp) (by simp), by simpa using hcp, by simpa using isAligned_add_four hpc⟩

/-- A branch drops bits [1:0] of its target. -/
theorem State.jump_inv {s : State} (h : s.Inv) (v : Word) : (s.jump v).Inv := by
  obtain ⟨hsys, hcp, -⟩ := h
  exact ⟨hsys.congr (by simp) (by simp) (by simp), by simpa using hcp, by simpa using isAligned_alignWord v⟩

theorem State.takeException_inv {s : State} (h : s.Inv) (e : Exception) : (s.takeException e).Inv :=
  State.jump_inv (by simpa [State.Inv] using h) e.vector

/-- The record of a fault touches neither Control nor the table base. -/
theorem State.dataAbort_inv {s : State} (h : s.Inv) (f : MemFault) : (s.dataAbort f).Inv :=
  State.takeException_inv (s := { s.draw.2.draw.2 with cp15 := s.cp15.recordFault f s.draw.1 s.draw.2.draw.1 }) h
    .dataAbort

theorem State.returnFrom_inv {s : State} (h : s.Inv) (p v : Word) : (s.returnFrom p v).Inv :=
  State.jump_inv (s := s.setCpsr p) h v

theorem State.raiseHazard_inv {s : State} (h : s.Inv) : s.raiseHazard.Inv := h

/-- With Control 0 everything is off, and the other registers of coprocessor 15 are free. -/
theorem Cp15.clearControl_inv {cp : Cp15} (h : cp.Inv) : ({ cp with control := 0 } : Cp15).Inv := by
  obtain ⟨-, httb, -⟩ := h
  exact ⟨by simp, httb, fun _ => by simp [Cp15.cacheOn, Cp15.writeBufferOn]⟩

theorem State.resetEntry_inv {s : State} (h : s.Inv) : s.resetEntry.Inv := by
  obtain ⟨hsys, hcp, -⟩ := h
  exact ⟨MemSys.resetEntry_inv hsys, Cp15.clearControl_inv hcp, (rfl : isAligned 0 = true)⟩

/-! ## What the accesses leave of the invariant -/

/-- The access, however it ends, keeps the invariant of the memory system. -/
def Access.KeepsInv {α : Type} (m : MemSys) (x : Access α) : Prop := x.Leaves fun m' => m.Inv → m'.Inv

theorem Access.OnlyReads.keepsInv {α : Type} {m : MemSys} {x : Access α} (h : x.OnlyReads m) : x.KeepsInv m := by
  cases x with
  | ok a m' => exact MemSys.Reads.inv h
  | abort f m' => exact MemSys.Reads.inv h
  | refuse r => trivial

theorem Access.KeepsInv.after {α : Type} {m m' : MemSys} {x : Access α} (h : m.Inv → m'.Inv) (k : x.KeepsInv m') :
    x.KeepsInv m := by
  cases x with
  | ok a m'' => exact fun i => k (h i)
  | abort f m'' => exact fun i => k (h i)
  | refuse r => trivial

theorem Access.KeepsInv.andThen {α β : Type} {m : MemSys} {x : Access α} {f : α → MemSys → Access β}
    (h : x.KeepsInv m) (k : ∀ a m', (f a m').KeepsInv m') : (x.andThen f).KeepsInv m := by
  cases x with
  | ok a m' => exact .after h (k a m')
  | abort e m' => exact h
  | refuse r => trivial

theorem memWrite_keepsInv (cp : Cp15) (style : WriteStyle) (sz : Size) (va : Word) (priv : Bool) (v : Word)
    (m : MemSys) : (memWrite cp style sz va priv v m).KeepsInv m := by
  have h := memWrite_stored cp style sz va priv v m
  cases e : memWrite cp style sz va priv v m with
  | ok a m' => exact (h.ok e).inv
  | abort f m' => exact (h.abort e).inv
  | refuse r => trivial

theorem swapAccess_keepsInv (cp : Cp15) (sz : Size) (va : Word) (priv : Bool) (v : Word) (m : MemSys) :
    (swapAccess cp sz va priv v m).KeepsInv m :=
  (lockedRead_onlyReads cp sz va priv m).keepsInv.andThen fun _ m1 =>
    (memWrite_keepsInv cp .locked sz va priv v m1).andThen fun _ _ => id

theorem writeRest_keepsInv (cp : Cp15) (priv : Bool) (f : MemFault) (ts : List (Word × Word)) (m : MemSys) :
    (writeRest cp priv f ts m).KeepsInv m := by
  induction ts generalizing m with
  | nil => exact id
  | cons t rest ih =>
    have hw := memWrite_keepsInv cp .sequential .word t.1 priv t.2 m.drawBit.2
    unfold writeRest
    split
    · cases e : memWrite cp .sequential .word t.1 priv t.2 m.drawBit.2 with
      | refuse r => trivial
      | abort g m' => exact .after (hw.abort e) (ih m')
      | ok a m' => exact .after (hw.ok e) (ih m')
    · exact ih m.drawBit.2

theorem writeBlock_keepsInv (cp : Cp15) (priv : Bool) (style : WriteStyle) (ts : List (Word × Word)) (m : MemSys) :
    (writeBlock cp priv style ts m).KeepsInv m := by
  induction ts generalizing m style with
  | nil => exact id
  | cons t rest ih =>
    have hw := memWrite_keepsInv cp style .word t.1 priv t.2 m
    unfold writeBlock
    cases e : memWrite cp style .word t.1 priv t.2 m with
    | refuse r => trivial
    | abort g m' => exact .after (hw.abort e) (writeRest_keepsInv cp priv g rest m')
    | ok a m' => exact .after (hw.ok e) (ih .sequential m')

section
variable {cp : Cp15} {priv : Bool} {as ws : List Word} {f : MemFault} {m m' : MemSys}

theorem readBlock_done_reads (e : readBlock cp priv as m = .done ws m') : m.Reads m' := by
  have h := readBlock_reads cp priv as m
  rw [e] at h
  exact h.1

theorem readBlock_aborted_reads (e : readBlock cp priv as m = .aborted ws f m') : m.Reads m' := by
  have h := readBlock_reads cp priv as m
  rw [e] at h
  exact h.1

end

/-! ## Work in a mode -/

/-- What an unprivileged operation of an instruction in mode `md` may do to the state before the instruction ends: registers
that `md` names, the flags, and the memory system within its invariant. -/
structure State.Worked (s : State) (md : Mode) (u : State) : Prop where
  sys : s.sys.Inv → u.sys.Inv
  cp15 : u.cp15 = s.cp15
  pc : u.pc = s.pc
  spsr : ∀ m, u.spsr m = s.spsr m
  cpsr : u.cpsr.extractLsb' 0 28 = s.cpsr.extractLsb' 0 28
  regs : ∀ p, (∀ n, md.bank n ≠ some p) → u.preg p = s.preg p

section
variable {s u : State} {md : Mode}

theorem State.Worked.refl (s : State) (md : Mode) : s.Worked md s :=
  ⟨id, rfl, rfl, fun _ => rfl, rfl, fun _ _ => rfl⟩

theorem State.Worked.inv (h : s.Worked md u) (i : s.Inv) : u.Inv := by
  obtain ⟨hsys, hcp, hpc⟩ := i
  exact ⟨h.sys hsys, h.cp15 ▸ hcp, h.pc ▸ hpc⟩

theorem State.Worked.write (h : s.Worked md u) (n : RegNo) (v : Word) : s.Worked md (u.write md n v) where
  sys i := by simpa using h.sys i
  cp15 := by simpa using h.cp15
  pc := by simpa using h.pc
  spsr m := by simpa using h.spsr m
  cpsr := by simpa using h.cpsr
  regs p hp := by rw [State.preg_write, if_neg (hp n), h.regs p hp]

theorem State.Worked.withSys {m : MemSys} (h : s.Worked md u) (hm : u.sys.Inv → m.Inv) : s.Worked md (u.withSys m) :=
  ⟨fun i => hm (h.sys i), h.cp15, h.pc, fun x => by simpa using h.spsr x, h.cpsr, h.regs⟩

theorem State.Worked.draw (h : s.Worked md u) : s.Worked md u.draw.2 := h.withSys id

theorem State.Worked.setFlagBits (h : s.Worked md u) (b : BitVec 4) :
    s.Worked md (u.setCpsr (withFlagBits u.cpsr b)) :=
  ⟨h.sys, h.cp15, h.pc, fun x => by simpa using h.spsr x, by simpa using h.cpsr, h.regs⟩

theorem State.Worked.setFlags (h : s.Worked md u) (f : Flags) : s.Worked md (u.setFlags f) := h.setFlagBits f.bits

theorem State.Worked.setFlagsIf (h : s.Worked md u) (on : Bool) (f : Flags) : s.Worked md (u.setFlagsIf on f) := by
  cases on
  · exact h
  · exact h.setFlags f

theorem State.Worked.writeBack (h : s.Worked md u) (ix : Indexing) (rn : RegNo) (v : Word) :
    s.Worked md (writeBack u md ix rn v) := by
  unfold Sys2Proof.Machine.writeBack
  split
  · exact h.write rn v
  · exact h

theorem State.Worked.blockWriteBack (h : s.Worked md u) (s0 : State) (up w : Bool) (rn : RegNo) (list : BitVec 16) :
    s.Worked md (blockWriteBack s0 u md up w rn list) := by
  unfold Sys2Proof.Machine.blockWriteBack
  split
  · exact h.write rn _
  · exact h

theorem State.Worked.writeRegisters (h : s.Worked md u) (rs : List RegNo) (ws : List Word) :
    s.Worked md (writeRegisters u md rs ws) := by
  induction rs generalizing u ws with
  | nil => exact h
  | cons r rs ih =>
    cases ws with
    | nil => exact h
    | cons w ws => exact ih (h.write r w) ws

end

/-! ## How an instruction ends -/

/-- How an instruction that was executed, or skipped, in mode `md` ends: after unprivileged work it goes on, branches or takes
the data abort; or it takes a trap; or it is one that only a privileged mode may run, which keeps the invariant. -/
inductive State.Ends (s : State) (md : Mode) : State → Prop
  | goesOn {u : State} (worked : s.Worked md u) : s.Ends md u.advance
  | branches {u : State} (worked : s.Worked md u) (target : Word) : s.Ends md (u.jump target)
  | aborts {u : State} (worked : s.Worked md u) (cpsr : u.cpsr = s.cpsr) (f : MemFault) : s.Ends md (u.dataAbort f)
  | traps {e : Exception} (which : e = .undefined ∨ e = .softwareInterrupt) : s.Ends md (s.takeException e)
  | privileged {t : State} (mode : md ≠ .usr) (inv : s.Inv → t.Inv) : s.Ends md t

/-- An executed instruction ends as its body does, a skipped one goes on. -/
theorem conditionally_ends {c : Cond} {s t : State} {body : Mode → Result} (h : conditionally c s body = .next t)
    (hb : ∀ md, body md = .next t → s.Ends md t) : ∃ md, s.Runs md ∧ s.Ends md t := by
  obtain ⟨md, hr, ⟨-, h⟩ | ⟨-, rfl⟩⟩ := conditionally_next h
  · exact ⟨md, hr, hb md h⟩
  · exact ⟨md, hr, .goesOn (.refl s md)⟩

theorem Mode.ne_usr_of_privileged {md : Mode} (h : ¬ (!md.privileged) = true) : md ≠ .usr := by
  rintro rfl
  exact h rfl

/-- A mode with an SPSR is privileged (rule R38). -/
theorem State.ne_usr_of_spsr {s : State} {md : Mode} {p : Word} (h : s.spsr md = some p) : md ≠ .usr := by
  rintro rfl
  cases h

section
variable {s t : State} {md : Mode} {c : Cond}

/-! ### Data processing, PSR transfer and multiply -/

theorem testToPsr_ends (h : testToPsr s md = .next t) : s.Ends md t := by
  unfold testToPsr at h
  split at h
  next => cases h; exact .goesOn (.refl s md)
  next p hp => cases h; exact .privileged (State.ne_usr_of_spsr hp) fun i => State.advance_inv (s := s.setCpsr p) i

theorem writePc_ends {sBit : Bool} {v : Word} (h : writePc sBit v s md = .next t) : s.Ends md t := by
  unfold writePc at h
  split at h
  · split at h
    next => cases h
    next p hp => cases h; exact .privileged (State.ne_usr_of_spsr hp) fun i => State.returnFrom_inv i p v
  · cases h; exact .branches (.refl s md) v

theorem dpFinish_ends {op : DpOp} {sBit : Bool} {rd : RegNo} {r : AluResult}
    (h : dpFinish op sBit rd r s md = .next t) : s.Ends md t := by
  unfold dpFinish at h
  split at h
  · split at h
    · exact testToPsr_ends h
    · cases h; exact .goesOn ((State.Worked.refl s md).setFlagsIf sBit r.flags)
  · split at h
    · exact writePc_ends h
    · cases h; exact .goesOn (((State.Worked.refl s md).write rd r.value).setFlagsIf sBit r.flags)

theorem dataProcessing_ends {op : DpOp} {sBit : Bool} {rn rd : RegNo} {o : Operand2}
    (h : dataProcessing op c sBit rn rd o s = .next t) : ∃ md, s.Runs md ∧ s.Ends md t := by
  refine conditionally_ends h fun md h => ?_
  split at h
  · cases h
  · exact dpFinish_ends h

theorem moveFromPsr_ends {sel : PsrSel} {rd : RegNo} (h : moveFromPsr c sel rd s = .next t) :
    ∃ md, s.Runs md ∧ s.Ends md t := by
  refine conditionally_ends h fun md h => ?_
  split at h
  · cases h
  · split at h
    next => cases h
    next p _ => cases h; exact .goesOn ((State.Worked.refl s md).write rd p)

theorem State.setPsr_inv (h : s.Inv) (sel : PsrSel) (v : Word) : (s.setPsr md sel v).Inv := by
  unfold State.setPsr
  cases sel with
  | cpsr => exact h
  | spsr => simpa [State.Inv] using h

/-- Writing the flag bits of a PSR: those of the CPSR in any mode, those of an SPSR where there is one (rule R293). -/
theorem setPsr_flagBits_ends {sel : PsrSel} {p : Word} (hp : s.psr md sel = some p) (b : BitVec 4) :
    s.Ends md (s.setPsr md sel (withFlagBits p b)).advance := by
  cases sel with
  | cpsr => cases hp; exact .goesOn ((State.Worked.refl s md).setFlagBits b)
  | spsr => exact .privileged (State.ne_usr_of_spsr hp) fun i => State.advance_inv (State.setPsr_inv i .spsr _)

theorem moveToPsr_ends {sel : PsrSel} {rm : RegNo} (h : moveToPsr c sel rm s = .next t) :
    ∃ md, s.Runs md ∧ s.Ends md t := by
  refine conditionally_ends h fun md h => ?_
  split at h
  · cases h
  · split at h
    next => cases h
    next p hp =>
      cases h
      by_cases hm : md = .usr
      · subst hm; exact setPsr_flagBits_ends hp _
      · exact .privileged hm fun i => State.advance_inv (State.setPsr_inv i sel _)

theorem moveToFlags_ends {sel : PsrSel} {f : FlagSource} (h : moveToFlags c sel f s = .next t) :
    ∃ md, s.Runs md ∧ s.Ends md t := by
  refine conditionally_ends h fun md h => ?_
  split at h
  · cases h
  · split at h
    next => cases h
    next p hp => cases h; exact setPsr_flagBits_ends hp _

theorem multiplyFinish_ends {u : State} {sBit : Bool} {rd : RegNo} {r : Word} (hu : s.Worked md u)
    (h : multiplyFinish sBit rd r u md = .next t) : s.Ends md t := by
  unfold multiplyFinish at h
  split at h
  · cases h; exact .goesOn ((hu.draw.write rd r).setFlags _)
  · cases h; exact .goesOn (hu.write rd r)

theorem multiply_ends {sBit : Bool} {rd rs rm : RegNo} (h : multiply c sBit rd rs rm s = .next t) :
    ∃ md, s.Runs md ∧ s.Ends md t := by
  refine conditionally_ends h fun md h => ?_
  split at h
  · cases h
  · exact multiplyFinish_ends (.refl s md) h

theorem multiplyAccumulate_ends {sBit : Bool} {rd rn rs rm : RegNo}
    (h : multiplyAccumulate c sBit rd rn rs rm s = .next t) : ∃ md, s.Runs md ∧ s.Ends md t := by
  refine conditionally_ends h fun md h => ?_
  split at h
  · cases h
  · split at h
    · exact multiplyFinish_ends (State.Worked.refl s md).draw h
    · exact multiplyFinish_ends (.refl s md) h

/-! ### Single transfers and swaps -/

theorem swap_ends {sz : Size} {rn rd rm : RegNo} (h : swap sz c rn rd rm s = .next t) :
    ∃ md, s.Runs md ∧ s.Ends md t := by
  refine conditionally_ends h fun md h => ?_
  have hk := swapAccess_keepsInv s.cp15 sz (s.read md rn 8#32) md.privileged (s.read md rm 8#32) s.sys
  split at h
  · cases h
  · split at h
    next => cases h
    next f m e => cases h; exact .aborts ((State.Worked.refl s md).withSys (hk.abort e)) rfl f
    next old m e => cases h; exact .goesOn (((State.Worked.refl s md).withSys (hk.ok e)).write rd old)

theorem deliverLoad_ends {u : State} {rd : RegNo} {v : Word} (hu : s.Worked md u)
    (h : deliverLoad u md rd v = .next t) : s.Ends md t := by
  unfold deliverLoad at h
  split at h
  · cases h; exact .branches hu v
  · cases h; exact .goesOn (hu.write rd v)

/-- An aborted single transfer: the base written back, then the data abort (rule R325). -/
theorem abortedTransfer_ends {m : MemSys} (hm : s.sys.Inv → m.Inv) (ix : Indexing) (rn : RegNo) (v : Word)
    (f : MemFault) : s.Ends md ((writeBack (s.withSys m) md ix rn v).dataAbort f) :=
  .aborts (((State.Worked.refl s md).withSys hm).writeBack ix rn v) (by simp) f

theorem loadRegister_ends {sz : Size} {ix : Indexing} {up : Bool} {rn rd : RegNo} {off : Offset}
    (h : loadRegister sz c ix up rn rd off s = .next t) : ∃ md, s.Runs md ∧ s.Ends md t := by
  refine conditionally_ends h fun md h => ?_
  have hk := (memRead_onlyReads s.cp15 sz (transferAddress s md ix up rn off) (ix.privilege md) s.sys).keepsInv
  split at h
  next => cases h
  next =>
    split at h
    next => cases h
    next f m e => cases h; exact abortedTransfer_ends (hk.abort e) ix rn _ f
    next v m e =>
      have hw := (State.Worked.refl s md).withSys (hk.ok e)
      split at h
      · cases h; exact .goesOn (hw.draw.write rd _)
      · exact deliverLoad_ends (hw.writeBack ix rn _) h

theorem storeRegister_ends {sz : Size} {ix : Indexing} {up : Bool} {rn rd : RegNo} {off : Offset}
    (h : storeRegister sz c ix up rn rd off s = .next t) : ∃ md, s.Runs md ∧ s.Ends md t := by
  refine conditionally_ends h fun md h => ?_
  have hk := fun v (m : MemSys) =>
    memWrite_keepsInv s.cp15 .single sz (transferAddress s md ix up rn off) (ix.privilege md) v m
  split at h
  next => cases h
  next =>
    split at h
    · split at h
      next => cases h
      next f m e => cases h; exact abortedTransfer_ends (s := s) ((hk _ s.draw.2.sys).abort e) ix rn _ f
      next m e =>
        cases h
        exact .goesOn (((State.Worked.refl s md).withSys ((hk _ s.draw.2.sys).ok e)).draw.write rn _)
    · split at h
      next => cases h
      next f m e => cases h; exact abortedTransfer_ends ((hk _ s.sys).abort e) ix rn _ f
      next m e => cases h; exact .goesOn (((State.Worked.refl s md).withSys ((hk _ s.sys).ok e)).writeBack ix rn _)

/-! ### Block transfers -/

section
variable {pre up w : Bool} {rn : RegNo} {list : BitVec 16}

theorem abortedLoad_inv {dest : Mode} {m : MemSys} (hm : s.sys.Inv → m.Inv) (i : s.Inv) (ws : List Word)
    (f : MemFault) : (abortedLoad s md dest up w rn list ws f m).Inv := by
  obtain ⟨hsys, hcp, hpc⟩ := i
  refine State.dataAbort_inv ?_ f
  exact ⟨by simpa using hm hsys, by simpa using hcp, by simpa using hpc⟩

theorem abortedLoad_ends {m : MemSys} (hm : s.sys.Inv → m.Inv) (ws : List Word) (f : MemFault) :
    s.Ends md (abortedLoad s md md up w rn list ws f m) :=
  .aborts ((((State.Worked.refl s md).withSys hm).writeRegisters _ ws).write rn _) (by simp) f

theorem loadFinish_ends {u : State} (hu : s.Worked md u) (ws : List Word) : s.Ends md (loadFinish list ws u) := by
  unfold loadFinish
  split
  · exact .branches hu _
  · exact .goesOn hu

theorem loadBlock_ends (h : loadBlock c pre up w rn list s = .next t) : ∃ md, s.Runs md ∧ s.Ends md t := by
  refine conditionally_ends h fun md h => ?_
  split at h
  next => cases h
  next =>
    split at h
    next => cases h
    next ws f m e => cases h; exact abortedLoad_ends (readBlock_aborted_reads e).inv ws f
    next ws m e =>
      cases h
      exact loadFinish_ends ((((State.Worked.refl s md).withSys (readBlock_done_reads e).inv).blockWriteBack s up w rn
        list).writeRegisters _ ws) ws

theorem loadBlockRestore_ends (h : loadBlockRestore c pre up w rn list s = .next t) :
    ∃ md, s.Runs md ∧ s.Ends md t := by
  refine conditionally_ends h fun md h => ?_
  split at h
  next => cases h
  next =>
    split at h
    next => cases h
    next p hp =>
      split at h
      next => cases h
      next ws f m e => cases h; exact abortedLoad_ends (readBlock_aborted_reads e).inv ws f
      next ws m e =>
        cases h
        have hw := (((State.Worked.refl s md).withSys (readBlock_done_reads e).inv).blockWriteBack s up w rn
          list).writeRegisters (listRegisters list) ws
        exact .privileged (State.ne_usr_of_spsr hp) fun i => State.returnFrom_inv (hw.inv i) p _

theorem loadBlockUser_ends (h : loadBlockUser c pre up w rn list s = .next t) : ∃ md, s.Runs md ∧ s.Ends md t := by
  refine conditionally_ends h fun md h => ?_
  split at h
  next => cases h
  next =>
    split at h
    · cases h
    · rename_i hm
      split at h
      · cases h
      · split at h
        next => cases h
        next ws f m e =>
          cases h
          exact .privileged (Mode.ne_usr_of_privileged hm) fun i => abortedLoad_inv (readBlock_aborted_reads e).inv i ws f
        next ws m e =>
          cases h
          have hw := ((State.Worked.refl s .usr).withSys (readBlock_done_reads e).inv).writeRegisters
            (listRegisters list) ws
          exact .privileged (Mode.ne_usr_of_privileged hm) fun i =>
            State.raiseHazard_inv (State.advance_inv (hw.inv i))

theorem storeFinish_ends {x : Access Unit} (hx : x.KeepsInv s.sys) (h : storeFinish s md up w rn list x = .next t) :
    s.Ends md t := by
  unfold storeFinish at h
  split at h
  next => cases h
  next f m => cases h; exact .aborts (((State.Worked.refl s md).withSys hx).blockWriteBack s up w rn list) (by simp) f
  next m => cases h; exact .goesOn (((State.Worked.refl s md).withSys hx).blockWriteBack s up w rn list)

theorem storeBlock_ends (h : storeBlock c pre up w rn list s = .next t) : ∃ md, s.Runs md ∧ s.Ends md t := by
  refine conditionally_ends h fun md h => ?_
  split at h
  next => cases h
  next => exact storeFinish_ends (writeBlock_keepsInv ..) h

theorem storeBlockUser_ends (h : storeBlockUser c pre up w rn list s = .next t) : ∃ md, s.Runs md ∧ s.Ends md t := by
  refine conditionally_ends h fun md h => ?_
  split at h
  next => cases h
  next =>
    split at h
    · cases h
    · split at h
      · cases h
      · exact storeFinish_ends (writeBlock_keepsInv ..) h

end

/-! ### Branches, traps and coprocessor 15 -/

theorem branch_ends {off : BitVec 24} (h : branch c off s = .next t) : ∃ md, s.Runs md ∧ s.Ends md t :=
  conditionally_ends h fun md h => by cases h; exact .branches (.refl s md) _

theorem branchLink_ends {off : BitVec 24} (h : branchLink c off s = .next t) : ∃ md, s.Runs md ∧ s.Ends md t :=
  conditionally_ends h fun md h => by cases h; exact .branches ((State.Worked.refl s md).write 14#4 _) _

theorem coprocessorTrap_ends (h : coprocessorTrap c s = .next t) : ∃ md, s.Runs md ∧ s.Ends md t :=
  conditionally_ends h fun md h => by cases h; exact .traps (.inl rfl)

theorem softwareInterrupt_ends (h : softwareInterrupt c s = .next t) : ∃ md, s.Runs md ∧ s.Ends md t :=
  conditionally_ends h fun md h => by cases h; exact .traps (.inr rfl)

/-- A read of coprocessor 15 draws free values at most. -/
theorem Cp15Source.read_inv (src : Cp15Source) (h : s.Inv) : (src.read s).2.Inv := by
  cases src <;> exact h

theorem deliverCp15_inv (h : s.Inv) (rd : RegNo) (v : Word) : (deliverCp15 s md rd v).Inv := by
  unfold deliverCp15
  split
  · exact h
  · exact ((State.Worked.refl s md).write rd v).inv h

theorem cp15Read_ends {zero : Bool} {rd : RegNo} {src : Cp15Source}
    (h : (View.cp15Read c zero rd src).meaning s = .next t) : ∃ md, s.Runs md ∧ s.Ends md t := by
  refine conditionally_ends h fun md h => ?_
  split at h
  · cases h; exact .traps (.inl rfl)
  · rename_i hm
    split at h
    · cases h
    · cases h
      exact .privileged (Mode.ne_usr_of_privileged hm) fun i => State.advance_inv (deliverCp15_inv (src.read_inv i) rd _)

/-- The Control register is written where the bits that shall be 0 are and the MMU is on with the cache or the write buffer
(rules R177, R397). -/
theorem writeControl_inv {v : Word} (h : writeControl v s = .next t) (i : s.Inv) : t.Inv := by
  obtain ⟨hsys, ⟨-, httb, -⟩, hpc⟩ := i
  unfold writeControl at h
  split at h
  · cases h
  · rename_i hzero
    split at h
    · cases h
    · rename_i hoff
      cases h
      refine State.advance_inv ⟨hsys, ⟨not_not.1 hzero, httb, fun hm => ?_⟩, hpc⟩
      change v.getLsbD 0 = false at hm
      rw [hm] at hoff
      simpa [Cp15.cacheOn, Cp15.writeBufferOn] using hoff

theorem writeTtb_inv {v : Word} (h : writeTtb v s = .next t) (i : s.Inv) : t.Inv := by
  obtain ⟨hsys, ⟨hcontrol, -, hoff⟩, hpc⟩ := i
  unfold writeTtb at h
  split at h
  · cases h
  · rename_i hzero
    cases h
    exact State.advance_inv ⟨hsys, ⟨hcontrol, not_not.1 hzero, hoff⟩, hpc⟩

theorem purgeTlb_inv {v : Word} (h : purgeTlb v s = .next t) (i : s.Inv) : t.Inv := by
  unfold purgeTlb at h
  split at h
  · cases h
  · cases h
    exact State.advance_inv (State.withSys_inv i (s.sys.tlbPurge_reads v))

/-- Every write of coprocessor 15 keeps the invariant. -/
theorem Cp15Target.write_inv {tgt : Cp15Target} {v : Word} (h : tgt.write v s = .next t) (i : s.Inv) : t.Inv := by
  cases tgt with
  | control => exact writeControl_inv h i
  | ttb => exact writeTtb_inv h i
  | dac => cases h; exact State.advance_inv (s := { s with cp15 := { s.cp15 with dac := v } }) i
  | flushTlb => cases h; exact State.advance_inv (State.withSys_inv i s.sys.tlbFlush_reads)
  | purgeTlb => exact purgeTlb_inv h i
  | flushIdc => cases h; exact State.advance_inv (State.withSys_inv i s.sys.cacheFlush_reads)
  | invalid => cases h; exact State.advance_inv i

theorem cp15Write_ends {zero : Bool} {rd : RegNo} {tgt : Cp15Target}
    (h : (View.cp15Write c zero rd tgt).meaning s = .next t) : ∃ md, s.Runs md ∧ s.Ends md t := by
  refine conditionally_ends h fun md h => ?_
  split at h
  · cases h; exact .traps (.inl rfl)
  · rename_i hm
    split at h
    · cases h
    · exact .privileged (Mode.ne_usr_of_privileged hm) (Cp15Target.write_inv h)

/-! ### Every instruction -/

theorem View.meaning_ends {v : View} (h : v.meaning s = .next t) : ∃ md, s.Runs md ∧ s.Ends md t := by
  cases v with
  | dp => exact dataProcessing_ends h
  | mrs => exact moveFromPsr_ends h
  | msr => exact moveToPsr_ends h
  | msrFlags => exact moveToFlags_ends h
  | mul => exact multiply_ends h
  | mla => exact multiplyAccumulate_ends h
  | swap => exact swap_ends h
  | load => exact loadRegister_ends h
  | store => exact storeRegister_ends h
  | ldm => exact loadBlock_ends h
  | ldmRestore => exact loadBlockRestore_ends h
  | ldmUser => exact loadBlockUser_ends h
  | stm => exact storeBlock_ends h
  | stmUser => exact storeBlockUser_ends h
  | branch => exact branch_ends h
  | branchLink => exact branchLink_ends h
  | cp15Read => exact cp15Read_ends h
  | cp15Write => exact cp15Write_ends h
  | trap => exact coprocessorTrap_ends h
  | swi => exact softwareInterrupt_ends h

/-- Every instruction that answers a next state ends in one of the ways of `State.Ends`. -/
theorem exec_ends {i : Instr} (h : exec i s = .next t) : ∃ md, s.Runs md ∧ s.Ends md t :=
  View.meaning_ends (exec_eq_meaning i s ▸ h)

/-! ## The invariant -/

theorem State.Ends.inv (h : s.Ends md t) (i : s.Inv) : t.Inv := by
  cases h with
  | goesOn worked => exact State.advance_inv (worked.inv i)
  | branches worked target => exact State.jump_inv (worked.inv i) target
  | aborts worked _ f => exact State.dataAbort_inv (worked.inv i) f
  | traps _ => exact State.takeException_inv i _
  | privileged _ inv => exact inv i

theorem exec_inv {i : Instr} (h : exec i s = .next t) (hi : s.Inv) : t.Inv := by
  obtain ⟨md, -, he⟩ := exec_ends h
  exact he.inv hi

theorem executeWord_inv {w : Word} (h : executeWord exec w s = .next t) (i : s.Inv) : t.Inv := by
  unfold executeWord at h
  split at h
  · exact exec_inv h i
  · split at h
    · cases h
    · cases h; exact State.advance_inv i

theorem executeHead_inv (h : executeHead exec s = .next t) (i : s.Inv) : t.Inv := by
  unfold executeHead at h
  split at h
  · cases h; exact State.takeException_inv i _
  · cases h
  · exact executeWord_inv h i

/-- What passes the gate. -/
theorem State.gate_next {body : Mode → Result} (h : s.gate body = .next t) : ∃ md, s.Runs md ∧ body md = .next t := by
  unfold State.gate at h
  split at h
  · cases h
  · rename_i md hm
    split at h
    · rename_i hc
      obtain ⟨hp, hd⟩ := Bool.and_eq_true_iff.1 hc
      exact ⟨md, ⟨hm, hp, hd⟩, h⟩
    · cases h

theorem State.fetched_inv (h : s.Inv) (md : Mode) : (s.fetched md).Inv :=
  State.withSys_inv h (s.sys.fillPipe_reads s.cp15 s.pc md.privileged)

theorem stepRunning_inv {inp : Inputs} (h : stepRunning exec inp s = .next t) (i : s.Inv) : t.Inv := by
  obtain ⟨md, -, h⟩ := State.gate_next h
  split at h
  · cases h; exact State.takeException_inv i _
  · exact executeHead_inv h (State.fetched_inv i md)

theorem State.popInputs_inv (h : s.Inv) : s.popInputs.2.Inv := by
  obtain ⟨-, -, -, hpc, hcp, hsys, -⟩ := s.popInputs_same
  unfold State.Inv
  rw [hpc, hcp, hsys]
  exact h

/-! ## User mode -/

/-- The two outcomes of an instruction in User mode: only what User mode may change has changed, or an exception is entered. -/
theorem State.Ends.confined (h : s.Ends .usr t) :
    (t.cpsr.extractLsb' 0 28 = s.cpsr.extractLsb' 0 28 ∧ s.KeepsSpecial t ∧
        ∀ p, (∀ n, Mode.usr.bank n ≠ some p) → t.preg p = s.preg p) ∨
      ∃ e : Exception, (e = .undefined ∨ e = .softwareInterrupt ∨ e = .dataAbort) ∧
        t.cpsr = entryPsr s.cpsr e.mode e.setsF ∧ t.spsr e.mode = some s.cpsr ∧ t.pc = e.vector ∧
        t.cp15.control = s.cp15.control ∧ t.cp15.ttb = s.cp15.ttb ∧ t.cp15.dac = s.cp15.dac ∧
        (∀ m, m = e.mode ∨ t.spsr m = s.spsr m) ∧
        ∀ p, (∀ n, Mode.usr.bank n ≠ some p) → p = e.mode.r14 ∨ t.preg p = s.preg p := by
  cases h with
  | goesOn worked | branches worked =>
    exact .inl ⟨by simpa using worked.cpsr, ⟨by simpa using worked.spsr, by simpa using worked.cp15⟩,
      by simpa using worked.regs⟩
  | @aborts u worked cpsr f =>
    obtain ⟨entered, records, -⟩ := u.dataAbort_spec f
    refine .inr ⟨.dataAbort, .inr (.inr rfl), ?_, ?_, entered.vector, ?_, ?_, ?_, fun m => ?_, fun p hp => ?_⟩
    · rw [← cpsr]; simp [State.dataAbort]
    · rw [entered.saved, cpsr]
    · rw [records.control, worked.cp15]
    · rw [records.ttb, worked.cp15]
    · rw [records.dac, worked.cp15]
    · exact (entered.spsrs m).imp_right (·.trans (worked.spsr m))
    · exact (entered.regs p).imp_right (·.trans (worked.regs p hp))
  | @traps e which =>
    have entered := s.takeException_entered e
    exact .inr ⟨e, which.imp_right .inl, by simp, entered.saved, entered.vector, by simp, by simp, by simp,
      entered.spsrs, fun p _ => entered.regs p⟩
  | privileged mode _ => exact absurd rfl mode

end

/-! ## The statements -/

/-- Settles O6: Reset, the entry of an interrupt or of a prefetch abort, and every way an instruction ends keep the invariant,
and so do the draining and the fetches before it. -/
theorem stepKeepsInv : Obligations.StepKeepsInv := by
  intro s t i h
  have hp := State.popInputs_inv i
  cases hr : s.popInputs.1.reset with
  | true =>
    rw [step_of_reset hr] at h
    cases h
    exact State.resetEntry_inv hp
  | false =>
    rw [step_of_running hr] at h
    exact stepRunning_inv h (State.withSys_inv hp s.popInputs.2.sys.drainSome_reads)

/-- Settles O14: User mode can end an instruction in any of the ways but the privileged one, and each of these is confined. -/
theorem userModeConfined : Obligations.UserModeConfined := by
  intro i s t hr h
  obtain ⟨md, hmd, he⟩ := exec_ends h
  obtain rfl : Mode.usr = md := Option.some.inj (hr.1.symm.trans hmd.1)
  exact he.confined

end Sys2Proof.Machine
end

section
/-! SUPPORT. The MMU and the byte lanes as the tables of the spec have them: the lanes and the rotation of a load, the checks of
an access, the table walk, and the checks that every access has passed (the statements O55, O56, O57, O60). -/

namespace Sys2Proof.Machine

/-! ## Byte lanes (rules R82, R90, R91) -/

/-- A lane of a bus word is the digit of its place to base 256. -/
theorem laneByte_toNat (w : Word) (lane : Nat) : (laneByte w lane).toNat = w.toNat / 2 ^ (8 * lane) % 256 := by
  rw [laneByte, BitVec.extractLsb'_toNat, Nat.shiftRight_eq_div_pow]

theorem zeroExtendByte_toNat (b : Byte) : (zeroExtendByte b).toNat = b.toNat := by
  rw [zeroExtendByte, BitVec.toNat_setWidth_of_le (by decide)]

theorem loaded_byte_toNat (be : Bool) (a w : Word) :
    (Size.byte.loaded be a w).toNat = w.toNat / 2 ^ (8 * byteLane be a) % 256 :=
  (zeroExtendByte_toNat _).trans (laneByte_toNat w _)

/-- A rotation right, in arithmetic: the low `n` bits go to the top. -/
theorem rotateRight_toNat (w : Word) {n : Nat} (hn : n < 32) :
    (w.rotateRight n).toNat = w.toNat / 2 ^ n + w.toNat % 2 ^ n * 2 ^ (32 - n) := by
  have hsplit : 2 ^ 32 = 2 ^ n * 2 ^ (32 - n) := by rw [← Nat.pow_add, Nat.add_sub_cancel' hn.le]
  have hlow : w.toNat / 2 ^ n < 2 ^ (32 - n) := Nat.div_lt_of_lt_mul (hsplit ▸ w.isLt)
  have hhigh : w.toNat <<< (32 - n) % 2 ^ 32 = (w.toNat % 2 ^ n) <<< (32 - n) := by
    rw [Nat.shiftLeft_eq, Nat.shiftLeft_eq, hsplit, Nat.mul_mod_mul_right]
  rw [BitVec.toNat_rotateRight, Nat.mod_eq_of_lt hn, hhigh, Nat.shiftRight_eq_div_pow, Nat.or_comm,
    ← Nat.shiftLeft_add_eq_or_of_lt hlow, Nat.shiftLeft_eq, Nat.add_comm]

/-- Settles O60: the byte is the lane that the byte order names, and a word turns by at most 24 places. -/
theorem byteLanes : Obligations.ByteLanes := by
  intro a w
  refine ⟨loaded_byte_toNat false a w, ?_, fun b => ?_⟩
  · rw [loaded_byte_toNat, show byteLane true a = 3 - a.toNat % 4 from rfl, Nat.mul_sub]
  · exact rotateRight_toNat w (n := 8 * (a.toNat % 4)) (by omega)

/-! ## The checks of an access (rules R110 to R114) -/

/-- The AP field that the two address bits from bit `i` up select is the digit of its place to base 4. -/
theorem subPage_toNat (fields : BitVec 8) (va : Word) (i : Nat) :
    (fields.extractLsb' (2 * (va.extractLsb' i 2).toNat) 2).toNat = fields.toNat / 4 ^ (va.toNat / 2 ^ i % 4) % 4 := by
  rw [BitVec.extractLsb'_toNat, Nat.shiftRight_eq_div_pow, Nat.pow_mul, BitVec.extractLsb'_toNat,
    Nat.shiftRight_eq_div_pow]

/-- The AP field of a sub-page, taken from the level two descriptor itself. -/
theorem subPage_field (l2 : Word) (sel : BitVec 2) :
    (l2.extractLsb' 4 8).extractLsb' (2 * sel.toNat) 2 = l2.extractLsb' (4 + 2 * sel.toNat) 2 := by
  ext i hi
  have := sel.isLt
  simp only [BitVec.getElem_extractLsb', BitVec.getLsbD_extractLsb', Nat.add_assoc]
  rw [decide_eq_true (show 2 * sel.toNat + i < 8 by omega), Bool.true_and]

/-- Table 9-2: what a client access may do, where Control.S and Control.R are not both set (rule R114). -/
theorem permitted_iff (ap : BitVec 2) (system rom priv write : Bool) (h : ¬ (system = true ∧ rom = true)) :
    permitted ap system rom priv write = true ↔
      ap = 3#2 ∨ (ap = 2#2 ∧ (priv = true ∨ write = false)) ∨ (ap = 1#2 ∧ priv = true) ∨
        (ap = 0#2 ∧ system = true ∧ priv = true ∧ write = false) ∨ (ap = 0#2 ∧ rom = true ∧ write = false) := by
  revert ap system rom priv write
  decide

section
variable {cp : Cp15} {e : TlbEntry} {va : Word} {write priv : Bool}

theorem checkAccess_of_noAccess (h : cp.domainAccess e.domain = 0#2 ∨ cp.domainAccess e.domain = 2#2) :
    checkAccess cp e va write priv = .fault (if e.map.isSection then .domainSection else .domainPage) := by
  rcases h with h | h <;> simp [checkAccess, h]

theorem checkAccess_of_manager (h : cp.domainAccess e.domain = 3#2) : checkAccess cp e va write priv = .permitted := by
  simp [checkAccess, h]

/-- The two Control bits together leave a client access without a meaning (log entry 35). -/
theorem checkAccess_of_reserved (h : cp.domainAccess e.domain = 1#2) (hs : cp.system = true) (hr : cp.rom = true) :
    checkAccess cp e va write priv = .reserved := by
  simp [checkAccess, h, hs, hr]

theorem checkAccess_of_client (h : cp.domainAccess e.domain = 1#2) (hsr : ¬ (cp.system = true ∧ cp.rom = true)) :
    checkAccess cp e va write priv =
      if permitted (e.map.permission va) cp.system cp.rom priv write then .permitted
      else .fault (if e.map.isSection then .permissionSection else .permissionPage) := by
  simp [checkAccess, h, hsr]

end

/-- Settles O56: the AP field is a digit of the descriptor, and each domain value has its own clause. -/
theorem accessChecks : Obligations.AccessChecks := by
  intro cp e va write priv dom ap
  refine ⟨?_, fun l1 l2 => ⟨rfl, subPage_field l2 _, subPage_field l2 _⟩, checkAccess_of_noAccess,
    checkAccess_of_manager, checkAccess_of_reserved, fun hclient hsr => ?_⟩
  · cases hmap : e.map with
    | sectionMap vtag base field => exact congrArg (Mapping.permission · va) hmap
    | large vtag base fields =>
      exact (congrArg (fun p => (Mapping.permission p va).toNat) hmap).trans (subPage_toNat fields va 14)
    | small vtag base fields =>
      exact (congrArg (fun p => (Mapping.permission p va).toNat) hmap).trans (subPage_toNat fields va 10)
  · exact (checkAccess_of_client hclient hsr).trans
      (if_congr (permitted_iff ap cp.system cp.rom priv write hsr) rfl rfl)

/-! ## The table walk (rules R103 to R111) -/

/-- The word that a descriptor address with bits [1:0] clear names. -/
theorem wordIndex_append_zero (x : BitVec 30) : wordIndex (x ++ 0#2 : BitVec 32) = x.toNat := by
  rw [wordIndex, BitVec.toNat_append]
  simp [Nat.shiftLeft_eq]

/-- With a plain table in memory a walk goes on with the level one descriptor that stands there. -/
theorem tableWalk_plain {cp : Cp15} {va : Word} {m : MemSys} (ha : m.asserts .level1 (level1Address cp.ttb va) = false)
    (hv : m.isVolatile (level1Address cp.ttb va) = false) :
    tableWalk cp va m =
      levelOne va (m.physWord (cp.ttb.extractLsb' 14 18 ++ va.extractLsb' 20 12 : BitVec 30).toNat) m.drainAll := by
  rw [tableWalk, MemSys.externalRead_word ha hv]
  exact congrArg (fun i => levelOne va (m.physWord i) m.drainAll) (wordIndex_append_zero _)

/-- A page table descriptor: the walk goes on with the level two descriptor that stands in the table it names. -/
theorem levelOne_page {va l1 : Word} {m : MemSys} (ht : l1.extractLsb' 0 2 = 1#2)
    (ha : m.asserts .level2 (level2Address l1 va) = false) (hv : m.isVolatile (level2Address l1 va) = false) :
    levelOne va l1 m =
      levelTwo l1 va (m.physWord (l1.extractLsb' 10 22 ++ va.extractLsb' 12 8 : BitVec 30).toNat) m.drainAll := by
  rw [levelOne, if_neg (by rw [ht]; decide), if_pos ht, MemSys.externalRead_word ha hv]
  exact congrArg (fun i => levelTwo l1 va (m.physWord i) m.drainAll) (wordIndex_append_zero _)

theorem levelOne_section {va l1 : Word} (m : MemSys) (ht : l1.extractLsb' 0 2 = 2#2) :
    levelOne va l1 m = .ok (sectionEntry l1 va) (m.tlbInsert (sectionEntry l1 va)) := by
  rw [levelOne, if_pos ht]

theorem levelOne_invalid {va l1 : Word} (m : MemSys) (ht : l1.extractLsb' 0 2 = 0#2 ∨ l1.extractLsb' 0 2 = 3#2) :
    levelOne va l1 m = .abort { status := .translationSection, domain := none, va := va } m := by
  rcases ht with ht | ht <;> simp [levelOne, ht]

theorem levelTwo_large {l1 va l2 : Word} (m : MemSys) (ht : l2.extractLsb' 0 2 = 1#2) :
    levelTwo l1 va l2 m = .ok (largeEntry l1 l2 va) (m.tlbInsert (largeEntry l1 l2 va)) := by
  rw [levelTwo, if_pos ht]

theorem levelTwo_small {l1 va l2 : Word} (m : MemSys) (ht : l2.extractLsb' 0 2 = 2#2) :
    levelTwo l1 va l2 m = .ok (smallEntry l1 l2 va) (m.tlbInsert (smallEntry l1 l2 va)) := by
  rw [levelTwo, if_neg (by rw [ht]; decide), if_pos ht]

theorem levelTwo_invalid {l1 va l2 : Word} (m : MemSys) (ht : l2.extractLsb' 0 2 = 0#2 ∨ l2.extractLsb' 0 2 = 3#2) :
    levelTwo l1 va l2 m = .abort { status := .translationPage, domain := some (l1.extractLsb' 5 4), va := va } m := by
  rcases ht with ht | ht <;> simp [levelTwo, ht]

section
variable {cp : Cp15} {va : Word} {write priv : Bool} {m m1 : MemSys} {e : TlbEntry}

/-- A translation whose entry is found is the verdict on that entry. -/
theorem translate_of_lookup (hm : cp.mmuOn = true) (h : lookupEntry cp va m = .ok e m1) :
    translate cp va write priv m = finishTranslation cp va write priv e m1 := by
  rw [translate, if_pos hm, h, Access.andThen]

theorem translate_of_lookup_abort {f : MemFault} (hm : cp.mmuOn = true) (h : lookupEntry cp va m = .abort f m1) :
    translate cp va write priv m = .abort f m1 := by
  rw [translate, if_pos hm, h, Access.andThen]

/-- An entry of a manager domain translates without a check (rule R113). -/
theorem translate_of_manager (hm : cp.mmuOn = true) (h : lookupEntry cp va m = .ok e m1)
    (hd : cp.domainAccess e.domain = 3#2) :
    ∃ t m', translate cp va write priv m = .ok t m' ∧ t.pa = e.map.physical va ∧ t.cacheable = e.cacheable ∧
      t.bufferable = e.bufferable := by
  rw [translate_of_lookup hm h, finishTranslation, checkAccess_of_manager hd]
  exact ⟨_, m1, rfl, rfl, rfl, rfl⟩

theorem lookupEntry_of_none (h : m.tlbMatches va = []) : lookupEntry cp va m = tableWalk cp va m := by
  rw [lookupEntry, h]

theorem lookupEntry_of_one (h : m.tlbMatches va = [e]) : lookupEntry cp va m = .ok e m := by
  rw [lookupEntry, h]

end

/-- Settles O55: the walk finds the descriptors in memory, and each descriptor type ends it in its own way. -/
theorem tableTranslation : Obligations.TableTranslation := by
  intro cp va write priv m l1 l2 hm hnone ha1 hv1 hl1
  have hwalk : lookupEntry cp va m = levelOne va l1 m.drainAll := by
    rw [lookupEntry_of_none hnone, tableWalk_plain ha1 hv1, hl1]
  refine ⟨fun ht hd => ?_, fun ht => ?_, fun ht ha2 hv2 hl2 => ?_⟩
  · exact translate_of_manager hm (hwalk.trans (levelOne_section _ ht)) hd
  · exact ⟨_, translate_of_lookup_abort hm (hwalk.trans (levelOne_invalid _ ht))⟩
  · have hpage : lookupEntry cp va m = levelTwo l1 va l2 m.drainAll.drainAll := by
      rw [hwalk, levelOne_page (m := m.drainAll) ht ha2 hv2, m.drainAll_reads.physWord, hl2]
    refine ⟨fun ht2 hd => ?_, fun ht2 hd => ?_, fun ht2 => ?_⟩
    · exact translate_of_manager hm (hpage.trans (levelTwo_large _ ht2)) hd
    · exact translate_of_manager hm (hpage.trans (levelTwo_small _ ht2)) hd
    · exact ⟨_, translate_of_lookup_abort hm (hpage.trans (levelTwo_invalid _ ht2))⟩

/-! ## Every access made is permitted (rules R95, R96, R124) -/

section
variable {cp : Cp15} {va : Word} {priv : Bool} {m m' : MemSys}

/-- A translation that is delivered has passed the checks. -/
theorem translate_permitted {write : Bool} {t : Translation} (hm : cp.mmuOn = true)
    (h : translate cp va write priv m = .ok t m') :
    ∃ e m1, lookupEntry cp va m = .ok e m1 ∧ checkAccess cp e va write priv = .permitted := by
  rw [translate, if_pos hm] at h
  obtain ⟨e, m1, hl, hf⟩ := Access.andThen_ok.1 h
  refine ⟨e, m1, hl, ?_⟩
  unfold finishTranslation at hf
  split at hf
  next hc => exact hc
  next => cases hf
  next => cases hf

/-- A bus word that is read has been translated first. -/
theorem readBusWord_translated {r : Word × Word} (h : readBusWord cp va priv m = .ok r m') :
    ∃ t m1, translate cp va false priv m = .ok t m1 := by
  obtain ⟨t, m1, ht, -⟩ := Access.andThen_ok.1 h
  exact ⟨t, m1, ht⟩

theorem fetchWord_translated {w pa : Word} (h : fetchWord cp va priv m = (.word w pa, m')) :
    ∃ t m1, translate cp va false priv m = .ok t m1 := by
  unfold fetchWord at h
  split at h
  next hr => exact readBusWord_translated hr
  next => cases h
  next => cases h

theorem readData_translated {sz : Size} {r : Word} (h : readData cp sz va priv m = .ok r m') :
    ∃ t m1, translate cp va false priv m = .ok t m1 := by
  unfold readData at h
  split at h
  · cases h
  · obtain ⟨_, _, hr, -⟩ := Access.andThen_ok.1 h
    exact readBusWord_translated hr

theorem memRead_translated {sz : Size} {r : Word} (h : memRead cp sz va priv m = .ok r m') :
    ∃ t m1, translate cp va false priv m = .ok t m1 := by
  obtain ⟨_, _, hr, -⟩ := Access.andThen_ok.1 h
  exact readData_translated hr

theorem lockedRead_translated {sz : Size} {r : Word} (h : lockedRead cp sz va priv m = .ok r m') :
    ∃ t m1, translate cp va false priv m = .ok t m1 := by
  unfold lockedRead at h
  split at h
  · cases h
  · obtain ⟨t, m1, ht, -⟩ := Access.andThen_ok.1 h
    exact ⟨t, m1, ht⟩

end

/-- Settles O57: no kind of access goes past its translation, and a translation delivers only what the checks permit. -/
theorem accessIsPermitted : Obligations.AccessIsPermitted := by
  intro cp sz va v priv style m m' hm
  refine ⟨fun h => ?_, fun h => ?_⟩
  · have ht : ∃ t m1, translate cp va false priv m = .ok t m1 := by
      rcases h with ⟨w, pa, h⟩ | ⟨r, h⟩ | ⟨r, h⟩ | ⟨r, h⟩
      · exact fetchWord_translated h
      · exact memRead_translated h
      · exact readData_translated h
      · exact lockedRead_translated h
    obtain ⟨t, m1, ht⟩ := ht
    exact translate_permitted hm ht
  · obtain ⟨-, t, m1, ht, -⟩ := memWrite_ok h
    exact translate_permitted hm ht

end Sys2Proof.Machine
end

section
/-! SUPPORT. What a load finds behind the write buffer and in the cache: how far the buffer has drained is not seen, and a load
sees the last store to its address (the statements O58, O59). -/

namespace Sys2Proof.Machine

/-! ## The write buffer (rules R167, R171) -/

/-- Draining early and then emptying the buffer is emptying it. -/
theorem MemSys.drainAll_drainOldest (m : MemSys) (n : Nat) : (m.drainOldest n).drainAll = m.drainAll := by
  simp [MemSys.drainAll, MemSys.drainOldest, ← Memory.afterWrites_append, List.take_append_drop]

theorem MemSys.busWord_wbuf (m : MemSys) (pa : Word) : (m.busWord pa).2.wbuf = m.wbuf := by
  unfold MemSys.busWord
  split <;> rfl

/-- An external read leaves the buffer empty, however it ends (rule R171). -/
theorem MemSys.externalRead_wbuf (m : MemSys) (k : BusKind) (pa : Word) : (m.externalRead k pa).2.wbuf = [] := by
  unfold MemSys.externalRead
  split
  · rfl
  · exact m.drainAll.busWord_wbuf pa

/-- What an external read brings does not depend on what has drained before it. -/
theorem MemSys.externalRead_drainOldest (m : MemSys) (n : Nat) (k : BusKind) (pa : Word) :
    (m.drainOldest n).externalRead k pa = m.externalRead k pa := by
  unfold MemSys.externalRead
  rw [MemSys.drainAll_drainOldest]
  rfl

/-- Settles O59: every access to the bus empties the buffer first, and the order of the writes is the same. -/
theorem writeBufferUnseen : Obligations.WriteBufferUnseen := fun m n k pa _ =>
  ⟨(m.drainOldest_reads n).phys, congrArg Prod.fst (m.externalRead_drainOldest n k pa), m.externalRead_wbuf k pa⟩

/-! ## The cache is left alone by translations and external accesses (rule R161) -/

/-- The access, however it ends, leaves the cache as it was. -/
def Access.KeepsCache {α : Type} (m : MemSys) (x : Access α) : Prop := x.Leaves fun m' => m'.cache = m.cache

theorem MemSys.busWord_cache (m : MemSys) (pa : Word) : (m.busWord pa).2.cache = m.cache := by
  unfold MemSys.busWord
  split <;> rfl

theorem MemSys.externalRead_cache (m : MemSys) (k : BusKind) (pa : Word) : (m.externalRead k pa).2.cache = m.cache := by
  unfold MemSys.externalRead
  split
  · rfl
  · exact m.drainAll.busWord_cache pa

theorem Access.KeepsCache.after {α : Type} {m m' : MemSys} {x : Access α} (h : m'.cache = m.cache)
    (k : x.KeepsCache m') : x.KeepsCache m := by
  cases x with
  | ok a m'' => exact Eq.trans k h
  | abort f m'' => exact Eq.trans k h
  | refuse r => trivial

theorem levelTwo_keepsCache (l1 va l2 : Word) (m : MemSys) : (levelTwo l1 va l2 m).KeepsCache m := by
  unfold levelTwo
  split
  · rfl
  · split <;> rfl

theorem levelOne_keepsCache (va l1 : Word) (m : MemSys) : (levelOne va l1 m).KeepsCache m := by
  unfold levelOne
  have h := m.externalRead_cache .level2 (level2Address l1 va)
  split
  · rfl
  · split
    · split
      next e => rw [e] at h; exact h
      next e => rw [e] at h; exact .after h (levelTwo_keepsCache _ _ _ _)
    · rfl

theorem tableWalk_keepsCache (cp : Cp15) (va : Word) (m : MemSys) : (tableWalk cp va m).KeepsCache m := by
  unfold tableWalk
  have h := m.externalRead_cache .level1 (level1Address cp.ttb va)
  split
  next e => rw [e] at h; exact h
  next e => rw [e] at h; exact .after h (levelOne_keepsCache _ _ _)

theorem lookupEntry_keepsCache (cp : Cp15) (va : Word) (m : MemSys) : (lookupEntry cp va m).KeepsCache m := by
  unfold lookupEntry
  split
  · exact tableWalk_keepsCache cp va m
  · rfl
  · rfl

/-- A translation does not touch the cache. -/
theorem translate_cache {cp : Cp15} {va : Word} {write priv : Bool} {m m' : MemSys} {t : Translation}
    (h : translate cp va write priv m = .ok t m') : m'.cache = m.cache := by
  unfold translate at h
  split at h
  · obtain ⟨e, m1, hl, hf⟩ := Access.andThen_ok.1 h
    unfold finishTranslation at hf
    split at hf <;> cases hf
    exact (lookupEntry_keepsCache cp va m).ok hl
  · cases h; rfl

theorem MemSys.bufferedWrite_cache (m : MemSys) (seq : Bool) (pa : Word) (lanes : BitVec 4) (w : Word) :
    (m.bufferedWrite seq pa lanes w).cache = m.cache := by
  unfold MemSys.bufferedWrite
  split <;> rfl

theorem MemSys.unbufferedWrite_cache {m m' : MemSys} {k : BusKind} {f : MemFault} {pa w : Word} {lanes : BitVec 4}
    (h : m.unbufferedWrite k f pa lanes w = .ok () m') : m'.cache = m.cache := by
  unfold MemSys.unbufferedWrite at h
  split at h <;> cases h
  rfl

/-- An external write does not touch the cache. -/
theorem writeTranslated_cache {cp : Cp15} {style : WriteStyle} {va w : Word} {lanes : BitVec 4} {t : Translation}
    {m m' : MemSys} (h : writeTranslated cp style va lanes w t m = .ok () m') : m'.cache = m.cache := by
  unfold writeTranslated at h
  split at h
  · cases h; exact m.bufferedWrite_cache _ _ _ _
  · exact MemSys.unbufferedWrite_cache h

theorem MemSys.refetch_cache (m : MemSys) (va pa : Word) : (m.refetch va pa).2.cache = m.cache := by
  unfold MemSys.refetch
  split
  · rfl
  · split <;> rfl

theorem refreshSlots_cache (va pa : Word) (xs : List Slot) (m : MemSys) : (refreshSlots va pa xs m).2.cache = m.cache := by
  induction xs generalizing m with
  | nil => rfl
  | cons x xs ih =>
    unfold refreshSlots
    split
    · split
      · exact (ih _).trans (MemSys.refetch_cache _ _ _)
      · exact ih _
    · exact ih m

/-- A store updates the cache and does nothing else to it (rule R162). -/
theorem memWrite_cache {cp : Cp15} {style : WriteStyle} {sz : Size} {va v : Word} {priv : Bool} {m m' : MemSys}
    (h : memWrite cp style sz va priv v m = .ok () m') :
    m'.cache = (m.cacheUpdate va (sz.lanes cp.bigEndian va) (sz.busData v)).cache := by
  unfold memWrite at h
  split at h
  · cases h
  · obtain ⟨t, m1, ht, h⟩ := Access.andThen_ok.1 h
    obtain ⟨_, m2, hw, h⟩ := Access.andThen_ok.1 h
    cases h
    calc (m2.refreshPipe va t.pa).cache
      _ = m2.cache := refreshSlots_cache va t.pa m2.pipe m2
      _ = (m1.cacheUpdate va (sz.lanes cp.bigEndian va) (sz.busData v)).cache := writeTranslated_cache hw
      _ = (m.cacheUpdate va (sz.lanes cp.bigEndian va) (sz.busData v)).cache := by
        rw [MemSys.cacheUpdate, MemSys.cacheUpdate, translate_cache ht]

/-! ## The cached word after a store (rule R162) -/

theorem CacheLine.word_update (l : CacheLine) (va : Word) (lanes : BitVec 4) (w : Word) :
    (l.update va lanes w).word va = mergeLanes lanes (l.word va) w := by
  have hi : (va.extractLsb' 2 2).toNat < 4 := (va.extractLsb' 2 2).isLt
  simp only [CacheLine.update, CacheLine.word]
  generalize (va.extractLsb' 2 2).toNat = k at hi
  simp [List.getD_eq_getElem?_getD, hi]

/-- The word a load finds in the cache after an update of its line. -/
theorem MemSys.cachedWord_cacheUpdate (m : MemSys) (va : Word) (lanes : BitVec 4) (w : Word) :
    (m.cacheUpdate va lanes w).cachedWord va = (m.cachedWord va).map (mergeLanes lanes · w) := by
  simp only [MemSys.cachedWord, MemSys.cacheUpdate]
  induction m.cache with
  | nil => rfl
  | cons l ls ih =>
    rw [List.map_cons, List.find?_cons, List.find?_cons]
    cases hl : l.tag == lineNumber va with
    | true => simp only [if_true, l.update_tag, hl, Option.map_some, l.word_update]
    | false => simpa only [Bool.false_eq_true, if_false, hl] using ih

/-- A bus word whose lanes are bytes of their own gives each of them back. -/
theorem laneByte_ofLanes (b : Nat → Byte) {k : Nat} (hk : k < 4) :
    laneByte (ofLanes (b 0) (b 1) (b 2) (b 3)) k = b k := by
  apply BitVec.eq_of_getLsbD_eq
  intro i hi
  rw [laneByte, BitVec.getLsbD_extractLsb', ofLanes_getLsbD, decide_eq_true hi, Bool.true_and]
  interval_cases k
  · rw [if_pos (by omega), show 8 * 0 + i = i by omega]
  · rw [if_neg (by omega), if_pos (by omega), show 8 * 1 + i - 8 = i by omega]
  · rw [if_neg (by omega), if_neg (by omega), if_pos (by omega), show 8 * 2 + i - 8 - 8 = i by omega]
  · rw [if_neg (by omega), if_neg (by omega), if_neg (by omega), show 8 * 3 + i - 8 - 8 - 8 = i by omega]

/-- A bus word is the word of its lanes. -/
theorem eq_of_laneByte_eq {w w' : Word} (h : ∀ k < 4, laneByte w k = laneByte w' k) : w = w' := by
  apply BitVec.eq_of_getLsbD_eq
  intro i hi
  have hlane := congrArg (BitVec.getLsbD · (i % 8)) (h (i / 8) (by omega))
  simpa [laneByte, BitVec.getLsbD_extractLsb', Nat.mod_lt, Nat.div_add_mod] using hlane

theorem laneByte_mergeLanes (lanes : BitVec 4) (old new : Word) {k : Nat} (hk : k < 4) :
    laneByte (mergeLanes lanes old new) k = laneByte (if lanes.getLsbD k then new else old) k :=
  laneByte_ofLanes (fun k => laneByte (if lanes.getLsbD k then new else old) k) hk

theorem laneByte_physWord (m : MemSys) (wa : Nat) {k : Nat} (hk : k < 4) :
    laneByte (m.physWord wa) k = m.physByte (4 * wa + k) := by
  rw [m.physWord_eq]
  exact laneByte_ofLanes (fun k => m.physByte (4 * wa + k)) hk

/-! ## A load after a store -/

/-- The lanes of `w` that a store of `v` at `va` moves hold what it stores. -/
def Size.HoldsStored (sz : Size) (be : Bool) (va v w : Word) : Prop :=
  ∀ k < 4, (sz.lanes be va).getLsbD k = true → laneByte w k = laneByte (sz.busData v) k

/-- A word moves on every lane. -/
theorem word_lanes (be : Bool) (va : Word) {k : Nat} (hk : k < 4) : (Size.word.lanes be va).getLsbD k = true := by
  change (15#4).getLsbD k = true
  interval_cases k <;> rfl

/-- What a load takes from a bus word that holds the store: the word whole, the byte zero-extended (rules R90, R91). -/
theorem Size.HoldsStored.loaded_word {be : Bool} {va v w : Word} (h : Size.word.HoldsStored be va v w)
    (ha : va.toNat % 4 = 0) : Size.word.loaded be va w = v := by
  have hw : w = v := eq_of_laneByte_eq fun k hk => h k hk (word_lanes be va hk)
  apply BitVec.eq_of_toNat_eq
  rw [Size.loaded, rotateRead, ha, hw, rotateRight_toNat v (by decide)]
  omega

theorem byteLane_lt (be : Bool) (va : Word) : byteLane be va < 4 := by
  unfold byteLane
  split <;> omega

theorem Size.HoldsStored.loaded_byte {be : Bool} {va v w : Word} (h : Size.byte.HoldsStored be va v w) :
    Size.byte.loaded be va w = (v.extractLsb' 0 8).setWidth 32 := by
  have hk := byteLane_lt be va
  have hon : (Size.byte.lanes be va).getLsbD (byteLane be va) = true := by
    simp [Size.lanes, hk]
  rw [Size.loaded, h _ hk hon, Size.busData, repeat_lane _ _ hk, zeroExtendByte]

/-- A cached word that the store has updated holds it. -/
theorem Size.holdsStored_mergeLanes (sz : Size) (be : Bool) (va v old : Word) :
    sz.HoldsStored be va v (mergeLanes (sz.lanes be va) old (sz.busData v)) := fun k hk hon => by
  rw [laneByte_mergeLanes _ _ _ hk, if_pos hon]

/-- The word of memory that the store has written holds it. -/
theorem MemSys.Wrote.holdsStored {m m' : MemSys} {sz : Size} {be : Bool} {pa va v : Word}
    (h : m.Wrote m' pa (sz.lanes be va) (sz.busData v)) : sz.HoldsStored be va v (m'.physWord (wordIndex pa)) :=
  fun k hk hon => by
    rw [laneByte_physWord _ _ hk, h.phys, if_pos ⟨by omega, by rwa [show (4 * wordIndex pa + k) % 4 = k by omega]⟩,
      show (4 * wordIndex pa + k) % 4 = k by omega]

/-! ## A linefetch behind the write buffer (rules R161, R171) -/

theorem MemSys.Reads.isVolatile {m m' : MemSys} (h : m.Reads m') (pa : Word) : m'.isVolatile pa = m.isVolatile pa := by
  rw [MemSys.isVolatile, h.volatile, MemSys.isVolatile]

theorem MemSys.asserts_congr {m m' : MemSys} (h : m'.busAborts = m.busAborts) (k : BusKind) (pa : Word) :
    m'.asserts k pa = m.asserts k pa := by
  rw [MemSys.asserts, h, MemSys.asserts]

/-- A drained memory system brings the word of plain memory that the processor has stored. -/
theorem MemSys.Reads.busWord_plain {m m' : MemSys} {pa : Word} (h : m.Reads m') (hq : m'.wbuf = [])
    (hv : m.isVolatile pa = false) : (m'.busWord pa).1 = m.physWord (wordIndex pa) := by
  rw [← h.isVolatile] at hv
  rw [← h.physWord, MemSys.busWord, hv, MemSys.physWord, hq]
  rfl

/-- Word `k` of a line of plain memory, as a linefetch brings it. -/
theorem MemSys.Reads.lineWords_getD {m m' : MemSys} {pa : Word} {k : BitVec 2} (h : m.Reads m') (hq : m'.wbuf = [])
    (hv : m.isVolatile (lineWordAddress pa k) = false) :
    (m'.lineWords pa).1.toList.getD k.toNat 0 = m.physWord (wordIndex (lineWordAddress pa k)) := by
  have h1 := h.trans (m'.busWord_reads (lineWordAddress pa 0))
  have h2 := h1.trans (MemSys.busWord_reads _ (lineWordAddress pa 1))
  have h3 := h2.trans (MemSys.busWord_reads _ (lineWordAddress pa 2))
  have q1 := (m'.busWord_wbuf (lineWordAddress pa 0)).trans hq
  have q2 := (MemSys.busWord_wbuf _ (lineWordAddress pa 1)).trans q1
  have q3 := (MemSys.busWord_wbuf _ (lineWordAddress pa 2)).trans q2
  obtain rfl | rfl | rfl | rfl : k = 0 ∨ k = 1 ∨ k = 2 ∨ k = 3 := by clear hv; revert k; decide
  · exact h.busWord_plain hq hv
  · exact h1.busWord_plain q1 hv
  · exact h2.busWord_plain q2 hv
  · exact h3.busWord_plain q3 hv

/-- The word of its line that an address lies in. -/
theorem wordIndex_lineWordAddress (pa : Word) : wordIndex (lineWordAddress pa (pa.extractLsb' 2 2)) = wordIndex pa := by
  rw [lineWordAddress]
  refine (wordIndex_append_zero (pa.extractLsb' 4 28 ++ pa.extractLsb' 2 2)).trans ?_
  have hlow := (pa.extractLsb' 2 2).isLt
  rw [BitVec.toNat_append, ← Nat.shiftLeft_add_eq_or_of_lt hlow]
  simp only [BitVec.extractLsb'_toNat, Nat.shiftLeft_eq, Nat.shiftRight_eq_div_pow, wordIndex]
  omega

/-- What the platform answers for is a matter of the word. -/
theorem MemSys.isVolatile_congr (m : MemSys) {pa pa' : Word} (h : wordIndex pa = wordIndex pa') :
    m.isVolatile pa = m.isVolatile pa' := by
  rw [MemSys.isVolatile, h, MemSys.isVolatile]

/-- An address made of a base and the low bits of `va` names the same word of a line. -/
theorem append_lineWord {n : Nat} (b : BitVec (32 - n)) (va : Word) (hn : 4 ≤ n) :
    (b ++ va.extractLsb' 0 n).extractLsb' 2 2 = va.extractLsb' 2 2 := by
  ext i hi
  simp only [BitVec.getElem_extractLsb', BitVec.getLsbD_append, BitVec.getLsbD_extractLsb', Nat.zero_add]
  rw [if_pos (by omega), decide_eq_true (by omega), Bool.true_and]

theorem Mapping.physical_lineWord (e : Mapping) (va : Word) :
    (e.physical va).extractLsb' 2 2 = va.extractLsb' 2 2 := by
  cases e with
  | sectionMap t b p => exact append_lineWord (n := 20) b va (by decide)
  | large t b p => exact append_lineWord (n := 16) b va (by decide)
  | small t b p => exact append_lineWord (n := 12) b va (by decide)

/-- A translation keeps the place of a word in its line (rules R107, R110, R111). -/
theorem translate_lineWord {cp : Cp15} {va : Word} {write priv : Bool} {m m' : MemSys} {t : Translation}
    (h : translate cp va write priv m = .ok t m') : t.pa.extractLsb' 2 2 = va.extractLsb' 2 2 := by
  unfold translate at h
  split at h
  · obtain ⟨e, m1, -, hf⟩ := Access.andThen_ok.1 h
    unfold finishTranslation at hf
    split at hf <;> cases hf
    exact e.map.physical_lineWord va
  · cases h; rfl

/-- A linefetch from plain memory brings the word that stands at the translated address (rule R161). -/
theorem MemSys.linefetch_plain {m : MemSys} {va : Word} {t : Translation}
    (ha : m.asserts .linefetch (alignWord t.pa) = false) (hv : m.isVolatile t.pa = false)
    (hplace : t.pa.extractLsb' 2 2 = va.extractLsb' 2 2) :
    ∃ m', m.linefetch va t = .ok (m.physWord (wordIndex t.pa), t.pa) m' := by
  have hw := wordIndex_lineWordAddress t.pa
  have hword : (m.drainAll.lineWords t.pa).1.toList.getD (va.extractLsb' 2 2).toNat 0 = m.physWord (wordIndex t.pa) := by
    rw [← hplace, m.drainAll_reads.lineWords_getD rfl (by rw [m.isVolatile_congr hw, hv]), hw]
  rw [MemSys.linefetch, if_neg (by rw [ha]; decide)]
  simp only [hword]
  exact ⟨_, rfl⟩

/-- A read of plain memory brings the cached word or the word that stands there, with all that was stored (rule R96). -/
theorem readTranslated_plain (cp : Cp15) {va : Word} {t : Translation} {m : MemSys} (har : m.asserts .read t.pa = false)
    (hal : m.asserts .linefetch (alignWord t.pa) = false) (hv : m.isVolatile t.pa = false)
    (hplace : t.pa.extractLsb' 2 2 = va.extractLsb' 2 2) :
    ∃ w m', readTranslated cp va t m = .ok (w, t.pa) m' ∧
      (m.cachedWord va = some w ∨ w = m.physWord (wordIndex t.pa)) := by
  unfold readTranslated
  cases hc : m.cachedWord va with
  | some w => exact ⟨w, m, rfl, .inl rfl⟩
  | none =>
    by_cases hline : (cp.cacheOn && t.cacheable) = true
    · obtain ⟨m', hl⟩ := MemSys.linefetch_plain hal hv hplace
      exact ⟨_, m', by simp only [hline, if_true, hl], .inr rfl⟩
    · exact ⟨_, m.drainAll, by simp only [hline, uncachedRead, MemSys.externalRead_word har hv,
        Bool.false_eq_true, if_false], .inr rfl⟩

/-- A load is what its bus word gives, once it is translated (rules R90, R91). -/
theorem memRead_of_translated {cp : Cp15} {sz : Size} {va w pa : Word} {priv : Bool} {m m' m'' : MemSys} {t : Translation}
    (hmis : misaligned cp sz va = false) (ht : translate cp va false priv m = .ok t m')
    (hr : readTranslated cp va t m' = .ok (w, pa) m'') :
    memRead cp sz va priv m = .ok (sz.loaded cp.bigEndian va w) m'' := by
  simp [memRead, readData, hmis, readBusWord, ht, Access.andThen, hr]

/-- Settles O58: the store leaves its lanes in the cached word, if there is one, and in memory; the load brings one of the
two. -/
theorem loadSeesStore : Obligations.LoadSeesStore := by
  intro cp sz va v p p' style m m0 m1 m2 t t' halign ht hstore ht' hpa haw har hal hv
  obtain ⟨hmis, tr, mt, htr, hwrote⟩ := memWrite_ok hstore
  obtain ⟨rfl, -⟩ : tr = t ∧ mt = m0 := by simpa [ht, eq_comm] using htr
  replace hwrote := hwrote.resolve_right fun ⟨_, h, _⟩ => by simp [haw] at h
  have hreads : m1.Reads m2 := (translate_onlyReads cp va false p' m1).ok ht'
  have hab : m2.busAborts = m.busAborts := hreads.aborts.trans hwrote.aborts
  obtain ⟨w, m3, hr, hw⟩ := readTranslated_plain cp (va := va) (t := t') (m := m2)
    (by rw [hpa, MemSys.asserts_congr hab, har]) (by rw [hpa, MemSys.asserts_congr hab, hal])
    (by rw [hpa, hreads.isVolatile, MemSys.isVolatile, hwrote.volatile]; exact hv) (translate_lineWord ht')
  have holds : sz.HoldsStored cp.bigEndian va v w := by
    rcases hw with hcached | rfl
    · have hcache : m2.cachedWord va = (m.cachedWord va).map (mergeLanes (sz.lanes cp.bigEndian va) · (sz.busData v)) := by
        rw [← MemSys.cachedWord_cacheUpdate, MemSys.cachedWord, translate_cache ht', memWrite_cache hstore,
          MemSys.cachedWord]
      obtain ⟨old, -, rfl⟩ := Option.map_eq_some_iff.1 (hcache.symm.trans hcached)
      exact sz.holdsStored_mergeLanes cp.bigEndian va v old
    · rw [hpa, hreads.physWord]
      exact hwrote.holdsStored
  refine ⟨m3, (memRead_of_translated hmis ht' hr).trans ?_⟩
  cases sz with
  | word => rw [holds.loaded_word (halign rfl)]
  | byte => rw [holds.loaded_byte]

end Sys2Proof.Machine
end

section
/-! SUPPORT. The faults that the alignment check and the MMU find before any access is made: the data abort they end an instruction
in; and what a store may change, however it ends (the statements O35, O37, O38). -/

namespace Sys2Proof.Machine

/-! ## Accesses that fault before they are made (rules R89, R124) -/

section
variable {cp : Cp15} {sz : Size} {va : Word} {priv : Bool} {m : MemSys}

/-- With alignment faults on, a word access off a word boundary is one (rule R89). -/
theorem misaligned_of_odd (hon : cp.control.getLsbD 1 = true) (ha : va.toNat % 4 ≠ 0) : misaligned cp .word va = true := by
  have hal : isAligned va = false := Bool.eq_false_iff.2 fun h => ha ((isAligned_iff va).1 h)
  rw [misaligned, Cp15.alignmentOn, hon, hal]
  rfl

/-- Table 9-4 gives an alignment fault the status 00x1. -/
theorem alignmentFault_codes (va : Word) : (alignmentFault va).status.codes = [1#4, 3#4] := rfl

theorem readData_misaligned (h : misaligned cp sz va = true) :
    readData cp sz va priv m = .abort (alignmentFault va) m := by
  rw [readData, if_pos h]

theorem memRead_misaligned (h : misaligned cp sz va = true) :
    memRead cp sz va priv m = .abort (alignmentFault va) m := by
  rw [memRead, readData_misaligned h, Access.andThen]

theorem lockedRead_misaligned (h : misaligned cp sz va = true) :
    lockedRead cp sz va priv m = .abort (alignmentFault va) m := by
  rw [lockedRead, if_pos h]

theorem swapAccess_misaligned (h : misaligned cp sz va = true) (v : Word) :
    swapAccess cp sz va priv v m = .abort (alignmentFault va) m := by
  rw [swapAccess, lockedRead_misaligned h, Access.andThen]

theorem memWrite_misaligned (h : misaligned cp sz va = true) (style : WriteStyle) (v : Word) :
    memWrite cp style sz va priv v m = .abort (alignmentFault va) m := by
  rw [memWrite, if_pos h]

theorem memRead_of_translate_abort {f : MemFault} (hmis : misaligned cp sz va = false)
    (h : translate cp va false priv m = .abort f m) : memRead cp sz va priv m = .abort f m := by
  simp [memRead, readData, hmis, readBusWord, h, Access.andThen]

theorem memWrite_of_translate_abort {f : MemFault} (hmis : misaligned cp sz va = false)
    (h : translate cp va true priv m = .abort f m) (style : WriteStyle) (v : Word) :
    memWrite cp style sz va priv v m = .abort f m := by
  simp [memWrite, hmis, h, Access.andThen]

/-- The permission fault at `va` of an access through entry `e` (rules R114, R120). -/
def permissionFault (e : TlbEntry) (va : Word) : MemFault :=
  { status := if e.map.isSection then .permissionSection else .permissionPage, domain := some e.domain, va := va }

/-- Table 9-4 tells a permission fault of a section from one of a page. -/
theorem permissionFault_codes (e : TlbEntry) (va : Word) :
    (permissionFault e va).status.codes = [if e.map.isSection then 0b1101#4 else 0b1111#4] := by
  unfold permissionFault
  cases e.map.isSection <;> rfl

theorem permissionFault_ne_busUnmapped (e : TlbEntry) (va : Word) : (permissionFault e va).status ≠ .busUnmapped := by
  unfold permissionFault
  cases e.map.isSection <;> exact fun h => nomatch h

/-- Where only a privileged access may go, an unprivileged one is a permission fault (AP = 01 in a client domain, rule R114). -/
theorem translate_of_privilegedOnly {e : TlbEntry} (write : Bool) (hm : cp.mmuOn = true) (he : m.tlbMatches va = [e])
    (hclient : cp.domainAccess e.domain = 1#2) (hap : e.map.permission va = 1#2)
    (hsr : (cp.system && cp.rom) = false) :
    translate cp va write false m = .abort (permissionFault e va) m := by
  have hcheck := checkAccess_of_client (va := va) (write := write) (priv := false) hclient (by simpa using hsr)
  rw [hap] at hcheck
  rw [translate_of_lookup hm (lookupEntry_of_one he), finishTranslation, hcheck]
  rfl

end

/-! ## The data abort of such a fault (rules R120, R435) -/

/-- `s` has ended in the data abort of fault `f`: the entry is made, FSR and FAR hold the fault, and no byte of memory has
changed. -/
structure State.Faults (s t : State) (f : MemFault) : Prop where
  mode : t.mode = some .abt
  vector : t.pc = 0x10#32
  link : t.preg .r14Abt = s.pc + 8#32
  status : t.cp15.fsrStatus ∈ f.status.codes
  domain : ∀ d, f.domain = some d → t.cp15.fsrDomain = d
  address : t.cp15.far = f.va
  memory : s.KeepsMemory t

theorem State.dataAbort_faults {s u : State} {f : MemFault} (hpc : u.pc = s.pc) (hmem : s.KeepsMemory u)
    (hf : f.status ≠ .busUnmapped) : s.Faults (u.dataAbort f) f := by
  obtain ⟨entered, records, keeps⟩ := u.dataAbort_spec f
  exact
    { mode := entered.mode
      vector := entered.vector
      link := entered.link.trans (congrArg (· + 8#32) hpc)
      status := records.status.resolve_left hf
      domain := records.domain
      address := records.address.resolve_left hf
      memory := fun a => (keeps a).trans (hmem a) }

section
variable {i : Instr} {c : Cond} {s t : State} {md : Mode} {f : MemFault} {sz : Size} {ix : Indexing} {up : Bool}
  {rn rd rm : RegNo} {off : Offset}

/-! ### Single transfers and swaps -/

theorem writeBack_dataAbort_faults {m : MemSys} (v : Word) (hm : ∀ a, m.physByte a = s.sys.physByte a)
    (hf : f.status ≠ .busUnmapped) : s.Faults ((writeBack (s.withSys m) md ix rn v).dataAbort f) f :=
  State.dataAbort_faults (by simp) (fun a => by simpa using hm a) hf

theorem exec_load_faults (hv : viewOf i = .load sz c ix up rn rd off) (hs : s.Executes md c)
    (hr : transferRestriction ix rn off = none) (hf : f.status ≠ .busUnmapped)
    (h : memRead s.cp15 sz (transferAddress s md ix up rn off) (ix.privilege md) s.sys = .abort f s.sys) :
    ∃ t, exec i s = .next t ∧ s.Faults t f := by
  rw [exec_eq_meaning, hv, View.meaning, loadRegister, hs.run]
  simp only [hr, h]
  exact ⟨_, rfl, writeBack_dataAbort_faults _ (fun _ => rfl) hf⟩

/-- A store that faults before it is made, whether or not it has drawn a free value for Rd = Rn (log entry 32). -/
theorem exec_store_faults (hv : viewOf i = .store sz c ix up rn rd off) (hs : s.Executes md c)
    (hr : transferRestriction ix rn off = none) (hf : f.status ≠ .busUnmapped)
    (h : ∀ v m, m.tlb = s.sys.tlb →
      memWrite s.cp15 .single sz (transferAddress s md ix up rn off) (ix.privilege md) v m = .abort f m) :
    ∃ t, exec i s = .next t ∧ s.Faults t f := by
  rw [exec_eq_meaning, hv, View.meaning, storeRegister, hs.run]
  simp only [hr, h _ s.sys rfl, h _ s.draw.2.sys rfl]
  split
  · exact ⟨_, rfl, writeBack_dataAbort_faults _ (fun _ => rfl) hf⟩
  · exact ⟨_, rfl, writeBack_dataAbort_faults _ (fun _ => rfl) hf⟩

theorem exec_swap_faults (hv : viewOf i = .swap sz c rn rd rm) (hs : s.Executes md c) (hrd : rd ≠ 15#4)
    (hrn : rn ≠ 15#4) (hrm : rm ≠ 15#4) (hf : f.status ≠ .busUnmapped)
    (h : swapAccess s.cp15 sz (s.read md rn 8#32) md.privileged (s.read md rm 8#32) s.sys = .abort f s.sys) :
    ∃ t, exec i s = .next t ∧ s.Faults t f := by
  rw [exec_eq_meaning, hv, View.meaning, swap, hs.run, if_neg (by simp [hrd, hrn, hrm])]
  simp only [h]
  exact ⟨_, rfl, State.dataAbort_faults rfl (fun _ => rfl) hf⟩

/-- Settles O38: the T forms ask as User mode does, and a translation that is denied ends the access. -/
theorem userTransferPrivilege : Obligations.UserTransferPrivilege := by
  intro i sz c up rn rd off s md e hv hs hr hm hmis he hclient hap hsr
  have hdenied : ∀ write m, m.tlb = s.sys.tlb →
      translate s.cp15 (s.read md rn 8#32) write false m = .abort (permissionFault e (s.read md rn 8#32)) m :=
    fun write m htlb => translate_of_privilegedOnly write hm (by rw [MemSys.tlbMatches, htlb]; exact he) hclient hap hsr
  have hf := permissionFault_ne_busUnmapped e (s.read md rn 8#32)
  have hfault : ∃ t, exec i s = .next t ∧ s.Faults t (permissionFault e (s.read md rn 8#32)) := by
    rcases hv with hv | hv
    · exact exec_load_faults hv hs hr hf (memRead_of_translate_abort hmis (hdenied false s.sys rfl))
    · exact exec_store_faults hv hs hr hf fun v m htlb =>
        memWrite_of_translate_abort hmis (hdenied true m htlb) .single v
  obtain ⟨t, ht, hfaults⟩ := hfault
  exact ⟨t, ht, hfaults.mode, hfaults.vector, hfaults.link, by simpa [permissionFault_codes] using hfaults.status,
    hfaults.domain _ rfl, hfaults.address, hfaults.memory⟩

/-! ### Block transfers -/

variable {pre w : Bool} {list : BitVec 16} {priv : Bool}

/-- The transfers of a block are all as far off a word boundary as the first (rule R341). -/
theorem mem_blockAddresses_low {a x : Word} {n : Nat} (h : x ∈ blockAddresses a n) : x.toNat % 4 = a.toNat % 4 := by
  induction n generalizing a with
  | zero => cases h
  | succ n ih =>
    rcases List.mem_cons.1 h with rfl | h
    · rfl
    · rw [ih h, BitVec.toNat_add, BitVec.toNat_ofNat]
      omega

/-- The registers of a list that is not empty. -/
theorem listRegisters_eq_cons (hl : list ≠ 0#16) : ∃ r rs, listRegisters list = r :: rs := by
  obtain ⟨r, hr⟩ := exists_listed hl
  exact List.exists_cons_of_ne_nil (List.ne_nil_of_mem ((mem_listRegisters list r).2 hr))

/-- The first transfer goes to `start` (rule R341). -/
theorem listAddresses_eq_cons (s : State) (md : Mode) (pre up : Bool) (rn : RegNo) (hl : list ≠ 0#16) :
    ∃ as, listAddresses s md pre up rn list = blockStart pre up (s.read md rn 8#32) list :: as := by
  obtain ⟨r, rs, hregs⟩ := listRegisters_eq_cons hl
  rw [listAddresses, listCount, hregs]
  exact ⟨_, rfl⟩

/-- The first transfer of an STM goes to `start`, and each transfer is as far off a word boundary as it. -/
theorem blockTransfers_eq_cons (s : State) (md bank : Mode) (pre up w : Bool) (rn : RegNo) (hl : list ≠ 0#16) :
    ∃ v ts, blockTransfers s md bank pre up w rn list = (blockStart pre up (s.read md rn 8#32) list, v) :: ts ∧
      ∀ x ∈ ts, x.1.toNat % 4 = (blockStart pre up (s.read md rn 8#32) list).toNat % 4 := by
  obtain ⟨r, rs, hregs⟩ := listRegisters_eq_cons hl
  rw [blockTransfers, listAddresses, listCount, hregs]
  refine ⟨_, _, rfl, fun x hx => ?_⟩
  have hmem : x.1 ∈ blockAddresses (blockStart pre up (s.read md rn 8#32) list) (rs.length + 1) :=
    .tail _ (List.of_mem_zip hx).1
  exact mem_blockAddresses_low hmem

/-- The transfers of an STM after one that aborted, if none of them can be made. -/
theorem writeRest_misaligned {cp : Cp15} {ts : List (Word × Word)} (m : MemSys) (h : ∀ x ∈ ts, misaligned cp .word x.1 = true) :
    ∃ m', writeRest cp priv f ts m = .abort f m' ∧ m.Reads m' := by
  induction ts generalizing m with
  | nil => exact ⟨m, rfl, .refl m⟩
  | cons x ts ih =>
    obtain ⟨m', hrest, hm'⟩ := ih m.drawBit.2 fun y hy => h y (.tail _ hy)
    refine ⟨m', ?_, m.drawBit_reads.trans hm'⟩
    rw [writeRest]
    split
    · rw [memWrite_misaligned (h x (.head _))]
      exact hrest
    · exact hrest

/-- An STM off a word boundary stores nothing, and its first transfer gives the fault (rule R354). -/
theorem writeBlock_misaligned {cp : Cp15} {a v : Word} {ts : List (Word × Word)} (style : WriteStyle) (m : MemSys)
    (ha : misaligned cp .word a = true) (h : ∀ x ∈ ts, misaligned cp .word x.1 = true) :
    ∃ m', writeBlock cp priv style ((a, v) :: ts) m = .abort (alignmentFault a) m' ∧ m.Reads m' := by
  rw [writeBlock, memWrite_misaligned ha]
  exact writeRest_misaligned m h

theorem abortedLoad_faults {m : MemSys} (dest : Mode) (ws : List Word) (hm : ∀ a, m.physByte a = s.sys.physByte a)
    (hf : f.status ≠ .busUnmapped) : s.Faults (abortedLoad s md dest up w rn list ws f m) f :=
  State.dataAbort_faults (by simp) (fun a => by simpa using hm a) hf

theorem storeFinish_faults {m : MemSys} {x : Access Unit} (hx : x = .abort f m) (hm : s.sys.Reads m)
    (hf : f.status ≠ .busUnmapped) : ∃ t, storeFinish s md up w rn list x = .next t ∧ s.Faults t f := by
  subst hx
  exact ⟨_, rfl, State.dataAbort_faults (by simp) (fun a => by simpa using hm.phys a) hf⟩

theorem blockRestriction_none (hrn : rn ≠ 15#4) (hl : list ≠ 0#16) : blockRestriction rn list = none := by
  simp [blockRestriction, hrn, hl]

theorem Mode.privileged_of_ne (h : md ≠ .usr) : md.privileged = true := by
  simp [Mode.privileged, h]

/-- Every mode but User mode has an SPSR (rule R38). -/
theorem State.spsr_isSome (s : State) (h : md ≠ .usr) : ∃ p, s.spsr md = some p := by
  cases md with
  | usr => exact absurd rfl h
  | fiq | irq | svc | abt | und => exact ⟨_, rfl⟩

/-- An LDM of any form whose first read faults loads nothing (rule R355). -/
theorem exec_ldm_faults
    (hv : viewOf i = .ldm c pre up w rn list ∨ (viewOf i = .ldmRestore c pre up w rn list ∧ md ≠ .usr) ∨
      (viewOf i = .ldmUser c pre up w rn list ∧ md ≠ .usr ∧ w = false))
    (hs : s.Executes md c) (hrn : rn ≠ 15#4) (hl : list ≠ 0#16) (hf : f.status ≠ .busUnmapped)
    (h : readBlock s.cp15 md.privileged (listAddresses s md pre up rn list) s.sys = .aborted [] f s.sys) :
    ∃ t, exec i s = .next t ∧ s.Faults t f := by
  have hr := blockRestriction_none hrn hl
  rcases hv with hv | ⟨hv, hmd⟩ | ⟨hv, hmd, rfl⟩
  · rw [exec_eq_meaning, hv, View.meaning, loadBlock, hs.run]
    simp only [hr, h]
    exact ⟨_, rfl, abortedLoad_faults md [] (fun _ => rfl) hf⟩
  · obtain ⟨p, hp⟩ := s.spsr_isSome hmd
    rw [exec_eq_meaning, hv, View.meaning, loadBlockRestore, hs.run]
    simp only [hr, hp, h]
    exact ⟨_, rfl, abortedLoad_faults md [] (fun _ => rfl) hf⟩
  · rw [Mode.privileged_of_ne hmd] at h
    rw [exec_eq_meaning, hv, View.meaning, loadBlockUser, hs.run]
    simp only [hr, Mode.privileged_of_ne hmd, Bool.not_true, Bool.false_eq_true, if_false, h]
    exact ⟨_, rfl, abortedLoad_faults .usr [] (fun _ => rfl) hf⟩

/-- An STM of any form whose transfers end in a fault with nothing stored. -/
theorem exec_stm_faults
    (hv : viewOf i = .stm c pre up w rn list ∨ (viewOf i = .stmUser c pre up w rn list ∧ md ≠ .usr ∧ w = false))
    (hs : s.Executes md c) (hrn : rn ≠ 15#4) (hl : list ≠ 0#16) (hf : f.status ≠ .busUnmapped)
    (h : ∀ bank, ∃ m, writeBlock s.cp15 md.privileged .single (blockTransfers s md bank pre up w rn list) s.sys =
      .abort f m ∧ s.sys.Reads m) :
    ∃ t, exec i s = .next t ∧ s.Faults t f := by
  have hr := blockRestriction_none hrn hl
  rcases hv with hv | ⟨hv, hmd, rfl⟩
  · obtain ⟨m, hx, hm⟩ := h md
    rw [exec_eq_meaning, hv, View.meaning, storeBlock, hs.run]
    simp only [hr]
    exact storeFinish_faults hx hm hf
  · obtain ⟨m, hx, hm⟩ := h .usr
    rw [exec_eq_meaning, hv, View.meaning, storeBlockUser, hs.run]
    simp only [hr, Mode.privileged_of_ne hmd, Bool.not_true, Bool.false_eq_true, if_false]
    rw [Mode.privileged_of_ne hmd] at hx
    exact storeFinish_faults hx hm hf

end

/-! ## The frame of a store (rules R92, R93, R325) -/

theorem State.preg_writeBack (s : State) (md : Mode) (ix : Indexing) (rn : RegNo) (v : Word) (p : PReg) :
    (writeBack s md ix rn v).preg p = if ix.writesBack = true ∧ md.bank rn = some p then v else s.preg p := by
  cases hw : ix.writesBack <;> simp [writeBack, hw, State.preg_write]

section
variable {s t : State} {md : Mode} {c : Cond} {sz : Size} {ix : Indexing} {up : Bool} {rn rd : RegNo} {off : Offset}

/-- How a store ends that answers a next state: its access has stored or faulted, the base is written back, and the instruction
goes on or takes the data abort. -/
theorem storeRegister_next (hs : s.Executes md c) (hb : baseIsData ix rn rd = false)
    (h : storeRegister sz c ix up rn rd off s = .next t) :
    ∃ m, Stored s.cp15 sz (transferAddress s md ix up rn off) (ix.privilege md) (storedValue s md rd) s.sys m ∧
      (t = (writeBack (s.withSys m) md ix rn (modifiedBase s md up rn off)).advance ∨
        ∃ f, t = (writeBack (s.withSys m) md ix rn (modifiedBase s md up rn off)).dataAbort f) := by
  have hst := memWrite_stored s.cp15 .single sz (transferAddress s md ix up rn off) (ix.privilege md)
    (storedValue s md rd) s.sys
  rw [storeRegister, hs.run] at h
  split at h
  next => cases h
  next =>
    rw [if_neg (by rw [hb]; decide)] at h
    split at h
    next => cases h
    next f m e => cases h; exact ⟨m, hst.abort e, .inr ⟨f, rfl⟩⟩
    next m e => cases h; exact ⟨m, hst.ok e, .inl rfl⟩

/-- Either end keeps memory as the access left it, and the registers but the base and R14_abt. -/
theorem storeRegister_end {m : MemSys} {v : Word}
    (h : t = (writeBack (s.withSys m) md ix rn v).advance ∨ ∃ f, t = (writeBack (s.withSys m) md ix rn v).dataAbort f) :
    (∀ a, t.sys.physByte a = m.physByte a) ∧
      ∀ p, (ix.writesBack = true ∧ md.bank rn = some p) ∨ p = .r14Abt ∨ t.preg p = s.preg p := by
  have hbase : ∀ p, (ix.writesBack = true ∧ md.bank rn = some p) ∨
      (writeBack (s.withSys m) md ix rn v).preg p = s.preg p := fun p => by
    rw [State.preg_writeBack, State.preg_withSys]
    exact (em _).imp_right fun hp => if_neg hp
  rcases h with rfl | ⟨f, rfl⟩
  · exact ⟨fun a => by simp, fun p => (hbase p).imp_right fun hp => .inr ((State.preg_advance _ p).trans hp)⟩
  · obtain ⟨entered, -, keeps⟩ := (writeBack (s.withSys m) md ix rn v).dataAbort_spec f
    exact ⟨fun a => (keeps a).trans (by simp),
      fun p => (hbase p).imp_right fun hp => (entered.regs p).imp_right (·.trans hp)⟩

end

/-- Settles O35: the access writes at the one translation it makes or nowhere, and what follows it touches no memory. -/
theorem storeFrame : Obligations.StoreFrame := by
  intro i sz c ix up rn rd off s t md hv hs hb h
  rw [exec_eq_meaning, hv] at h
  obtain ⟨m, hstored, hend⟩ := storeRegister_next hs hb h
  obtain ⟨hmem, hregs⟩ := storeRegister_end hend
  refine ⟨fun tr m1 htr a hnone => ?_, fun hnone a => ?_, hregs⟩
  · rw [hmem]
    rcases hstored with hreads | ⟨tr', m1', htr', hwrote⟩
    · exact hreads.phys a
    · rw [htr] at htr'
      cases htr'
      rw [hwrote.stored (translate_low htr), hnone, Option.getD_none]
  · rw [hmem]
    rcases hstored with hreads | ⟨tr', m1', htr', -⟩
    · exact hreads.phys a
    · exact absurd htr' (hnone tr' m1')

end Sys2Proof.Machine

namespace Sys2Proof.Proofs

open Machine

/-! ## The alignment fault of every word access.  In `Sys2Proof.Machine` the statement's name is that of the fault. -/

/-- Settles O37: the alignment check comes first in every access, and the first transfer of a block meets it first. -/
theorem alignmentFault : Obligations.AlignmentFault := by
  intro i c s md a hs hon ha hform
  have hodd : ∀ x : Word, x.toNat % 4 = a.toNat % 4 → misaligned s.cp15 .word x = true := fun x hx =>
    misaligned_of_odd hon (hx ▸ ha)
  have hmis := hodd a rfl
  have hf : (Machine.alignmentFault a).status ≠ .busUnmapped := fun h => nomatch h
  have hfault : ∃ t, exec i s = .next t ∧ s.Faults t (Machine.alignmentFault a) := by
    rcases hform with ⟨ix, up, rn, rd, off, hv | hv, hr, rfl⟩ | ⟨rn, rd, rm, hv, hrd, hrn, hrm, rfl⟩ |
      ⟨pre, up, w, rn, list, hv, hrn, hl, rfl⟩
    · exact exec_load_faults hv hs hr hf (memRead_misaligned hmis)
    · exact exec_store_faults hv hs hr hf fun v m _ => memWrite_misaligned hmis .single v
    · exact exec_swap_faults hv hs hrd hrn hrm hf (swapAccess_misaligned hmis _)
    · have hread : readBlock s.cp15 md.privileged (listAddresses s md pre up rn list) s.sys =
          .aborted [] (Machine.alignmentFault (blockStart pre up (s.read md rn 8#32) list)) s.sys := by
        obtain ⟨as, has⟩ := listAddresses_eq_cons s md pre up rn hl
        rw [has, readBlock, readData_misaligned hmis]
      have hwrite : ∀ bank, ∃ m, writeBlock s.cp15 md.privileged .single (blockTransfers s md bank pre up w rn list)
          s.sys = .abort (Machine.alignmentFault (blockStart pre up (s.read md rn 8#32) list)) m ∧ s.sys.Reads m := by
        intro bank
        obtain ⟨v, ts, hts, hlow⟩ := blockTransfers_eq_cons s md bank pre up w rn hl
        rw [hts]
        exact writeBlock_misaligned .single s.sys hmis fun x hx => hodd x.1 (hlow x hx)
      rcases hv with hv | hv | hv | hv | hv
      · exact exec_ldm_faults (.inl hv) hs hrn hl hf hread
      · exact exec_ldm_faults (.inr (.inl hv)) hs hrn hl hf hread
      · exact exec_ldm_faults (.inr (.inr hv)) hs hrn hl hf hread
      · exact exec_stm_faults (.inl hv) hs hrn hl hf hwrite
      · exact exec_stm_faults (.inr hv) hs hrn hl hf hwrite
  obtain ⟨t, ht, hfaults⟩ := hfault
  exact ⟨t, ht, hfaults.mode, hfaults.vector, hfaults.link, by simpa [alignmentFault_codes] using hfaults.status,
    hfaults.address, hfaults.memory⟩

end Sys2Proof.Proofs
end

section
/-! SUPPORT. The encoding (file 30): what a field of a word is, the classes of the decoder, and the formats that several
instructions share, each with the instruction its words stand for. -/

namespace Sys2Proof.Encoding

/-! ## Fields -/

theorem field_eq_extractLsb' (w : Word) (lo len : Nat) : field w lo len = w.extractLsb' lo len := by
  simp [field, BitVec.extractLsb', Nat.shiftRight_eq_div_pow]

theorem flag_eq_getLsbD (w : Word) (i : Nat) : flag w i = w.getLsbD i := by
  rw [flag, field_eq_extractLsb', BitVec.getLsbD_eq_extractLsb']

@[simp] theorem ofBool_beq_one (b : Bool) : (BitVec.ofBool b == 1#1) = b := by cases b <;> rfl

@[simp] theorem ofBool_flag (w : Word) (i : Nat) : BitVec.ofBool (flag w i) = field w i 1 := by
  unfold flag
  generalize field w i 1 = b
  revert b
  decide

/-- A field within a field. -/
theorem extractLsb'_field {w : Word} {lo len i n : Nat} (h : i + n ≤ len) :
    (field w lo len).extractLsb' i n = field w (lo + i) n := by
  simp only [field_eq_extractLsb']
  ext j hj
  simp [show i + j < len by omega, Nat.add_assoc]

/-! ### The named fields -/

@[simp] theorem Cond.ofBits_bits (c : Cond) : Cond.ofBits c.bits = c := by cases c <;> rfl

@[simp] theorem Cond.bits_ofBits (b : BitVec 4) : (Cond.ofBits b).bits = b := by revert b; decide

@[simp] theorem ShiftType.ofBits_bits (t : ShiftType) : ShiftType.ofBits t.bits = t := by cases t <;> rfl

@[simp] theorem ShiftType.bits_ofBits (b : BitVec 2) : (ShiftType.ofBits b).bits = b := by revert b; decide

@[simp] theorem PsrSel.ofBit_bit (p : PsrSel) : PsrSel.ofBit (p.bit == 1#1) = p := by cases p <;> rfl

@[simp] theorem PsrSel.bit_ofBit (b : Bool) : (PsrSel.ofBit b).bit = BitVec.ofBool b := by cases b <;> rfl

@[simp] theorem bits_condOf (w : Word) : (condOf w).bits = field w 28 4 := Cond.bits_ofBits _

/-! ### The fields of a word that is put together

A word of the encoder is a sum of fields, each put next to the one before it.  The sum is folded into the field values side
by side (`put_add_put`), and a field of it is found by walking up from the lowest.  `no_index`: the width of what is folded
is a numeral and not a sum. -/

/-- Two values put side by side. -/
@[simp] theorem put_add_put {m n lo hi : Nat} (h : hi = lo + n) (a : BitVec m) (b : BitVec n) :
    put hi a + put lo b = put lo (a ++ b) := by
  subst h
  rw [put, put, put, BitVec.toNat_append, ← Nat.shiftLeft_add_eq_or_of_lt b.isLt, Nat.shiftLeft_eq]
  ring

theorem field_put {n lo len : Nat} (h : lo + len ≤ 32) (v : BitVec n) :
    field (BitVec.ofNat 32 (put 0 v)) lo len = v.extractLsb' lo len := by
  rw [field_eq_extractLsb', put, pow_zero, mul_one, ← BitVec.extractLsb'_setWidth_of_le (b := v) h, BitVec.ofNat_toNat]

@[simp] theorem field_put_low {m n lo len : Nat} (h : lo + len ≤ n) (h32 : lo + len ≤ 32) (a : BitVec m)
    (b : BitVec n) :
    field (BitVec.ofNat 32 (put 0 (no_index (a ++ b)))) lo len = b.extractLsb' lo len := by
  rw [field_put h32, BitVec.extractLsb'_append_eq_of_add_le h]

@[simp] theorem field_put_high {m n lo len : Nat} (h : n ≤ lo) (h32 : lo + len ≤ 32) (a : BitVec m) (b : BitVec n) :
    field (BitVec.ofNat 32 (put 0 (no_index (a ++ b)))) lo len = field (BitVec.ofNat 32 (put 0 a)) (lo - n) len := by
  rw [field_put h32, field_put (by omega), BitVec.extractLsb'_append_eq_of_le h]

@[simp] theorem field_put_cond (c : Cond) : field (BitVec.ofNat 32 (put 0 c.bits)) 0 4 = c.bits := by
  rw [field_put (by decide), BitVec.extractLsb'_eq_self]

/-! ### The word put together from its own fields

Here fields of one word stand next to each other and the fold stays with fields of that word, down to the word itself; the
general fold `put_add_put` is switched off. -/

theorem field_append_field {w : Word} {m n lo hi : Nat} (h : hi = lo + n) :
    (field w hi m ++ field w lo n) = field w lo (m + n) := by
  simp only [field_eq_extractLsb', BitVec.extractLsb'_append_extractLsb'_eq_extractLsb' h]

@[simp] theorem put_field_add_put_field {w : Word} {m n lo hi : Nat} (h : hi = lo + n) :
    put hi (field w hi m) + put lo (field w lo n) = put lo (field w lo (m + n)) := by
  rw [put_add_put h, field_append_field h]

@[simp] theorem ofNat_put_field (w : Word) : BitVec.ofNat 32 (put 0 (field w 0 32)) = w := by
  simp [put, field_eq_extractLsb']

theorem field_split (w : Word) (lo m n : Nat) : field w lo (m + n) = field w (lo + n) m ++ field w lo n :=
  (field_append_field rfl).symm

/-- Instruction `i` stands for word `w`. -/
def Encodes (i : Instr) (w : Word) : Prop := encode i = w ∧ i.encodable = true

/-! ## The classes of rule R200 -/

section
variable {w : Word}

theorem field_class_cases (w : Word) : field w 25 3 = 0#3 ∨ field w 25 3 = 1#3 ∨ field w 25 3 = 2#3 ∨ field w 25 3 = 3#3 ∨
    field w 25 3 = 4#3 ∨ field w 25 3 = 5#3 ∨ field w 25 3 = 6#3 ∨ field w 25 3 = 7#3 := by
  generalize field w 25 3 = k
  revert k
  decide

theorem decode_class0 (h : field w 25 3 = 0#3) : decode w = decodeClass0 w (condOf w) := by simp [decode, h]

theorem decode_class1 (h : field w 25 3 = 1#3) : decode w = decodeClass1 w (condOf w) := by simp [decode, h]

theorem decode_class2 (h : field w 25 3 = 2#3) : decode w = .ok (decodeTransferImm (flag w 24) (flag w 22) (flag w 21)
    (flag w 20) (condOf w) (flag w 23) (field w 16 4) (field w 12 4) (field w 0 12)) := by
  simp [decode, h]

theorem decode_class3 (h : field w 25 3 = 3#3) : decode w =
    if flag w 4 then .ok (.undefined (condOf w) (field w 5 20) (field w 0 4))
    else .ok (decodeTransferReg (flag w 24) (flag w 22) (flag w 21) (flag w 20) (condOf w) (flag w 23) (field w 16 4)
      (field w 12 4) (field w 7 5) (ShiftType.ofBits (field w 5 2)) (field w 0 4)) := by
  simp [decode, h]

theorem decode_class4 (h : field w 25 3 = 4#3) : decode w = .ok (decodeBlock w (condOf w)) := by simp [decode, h]

theorem decode_class5 (h : field w 25 3 = 5#3) : decode w =
    if flag w 24 then .ok (.bl (condOf w) (field w 0 24)) else .ok (.b (condOf w) (field w 0 24)) := by
  simp [decode, h]

theorem decode_class6 (h : field w 25 3 = 6#3) : decode w =
    if flag w 20 then
      .ok (.ldc (condOf w) (flag w 24) (flag w 23) (flag w 22) (flag w 21) (field w 16 4) (field w 12 4) (field w 8 4)
        (field w 0 8))
    else
      .ok (.stc (condOf w) (flag w 24) (flag w 23) (flag w 22) (flag w 21) (field w 16 4) (field w 12 4) (field w 8 4)
        (field w 0 8)) := by
  simp [decode, h]

theorem decode_class7 (h : field w 25 3 = 7#3) : decode w =
    if flag w 24 then .ok (.swi (condOf w) (field w 0 24)) else .ok (decodeCoprocessor w (condOf w)) := by
  simp [decode, h]

end

/-! ## Data processing (rules R183 to R185) -/

/-- TST, TEQ, CMP and CMN (rule R184). -/
def isTestOpcode (op : BitVec 4) : Bool := op.extractLsb' 2 2 == 2#2

/-- The words that R200 sets aside in the data processing classes: a test opcode with S = 0. -/
theorem testWithoutS_iff (w : Word) :
    (field w 23 2 = 2#2 ∧ field w 20 1 = 0#1) ↔ (isTestOpcode (field w 21 4) && !flag w 20) = true := by
  rw [isTestOpcode, extractLsb'_field (by decide), ← ofBool_flag]
  cases flag w 20 <;> simp

/-- A word with an OpCode and nothing else: all that the data processing tables of the decoder look at. -/
def opcodeWord (op : BitVec 4) : Word := BitVec.ofNat 32 (put 21 op + put 0 0#21)

@[simp] theorem field_opcodeWord (op : BitVec 4) : field (opcodeWord op) 21 4 = op := by
  rw [opcodeWord, put_add_put (by decide), field_put (by decide), BitVec.extractLsb'_append_eq_left]

/-- A field value is one of finitely many numerals. -/
theorem exists_numeral {n : Nat} (b : BitVec n) : ∃ k < 2 ^ n, b = BitVec.ofNat n k := ⟨b.toNat, b.isLt, by simp⟩

section
variable (c : Cond) (op : BitVec 4) (s : Bool) (rn rd rs : RegNo) (rot : BitVec 4) (imm : BitVec 8) (amt : BitVec 5)
  (ty : ShiftType) (rm : RegNo)

/-- Data processing with a rotated immediate. -/
def dpImmWord : Word :=
  BitVec.ofNat 32 (put 28 c.bits + put 25 0b001#3 + put 21 op + put 20 (BitVec.ofBool s) + put 16 rn + put 12 rd +
    put 8 rot + put 0 imm)

/-- Data processing with a shift amount in the instruction. -/
def dpShImmWord : Word :=
  BitVec.ofNat 32 (put 28 c.bits + put 25 0b000#3 + put 21 op + put 20 (BitVec.ofBool s) + put 16 rn + put 12 rd +
    put 7 amt + put 5 ty.bits + put 4 0#1 + put 0 rm)

/-- Data processing with a shift amount in a register. -/
def dpShRegWord : Word :=
  BitVec.ofNat 32 (put 28 c.bits + put 25 0b000#3 + put 21 op + put 20 (BitVec.ofBool s) + put 16 rn + put 12 rd +
    put 8 rs + put 7 0#1 + put 5 ty.bits + put 4 1#1 + put 0 rm)

/-! The decoder's table at each OpCode gives the instruction of the format's word; a test has S = 1 whatever `s` is. -/

theorem encodes_dpImm : Encodes (decodeDpImm (opcodeWord op) c s rn rd rot imm)
    (dpImmWord c op (isTestOpcode op || s) rn rd rot imm) := by
  obtain ⟨n, hn, rfl⟩ := exists_numeral op
  interval_cases n <;> exact ⟨rfl, rfl⟩

theorem encodes_dpShImm : Encodes (decodeDpShImm (opcodeWord op) c s rn rd amt ty rm)
    (dpShImmWord c op (isTestOpcode op || s) rn rd amt ty rm) := by
  obtain ⟨n, hn, rfl⟩ := exists_numeral op
  interval_cases n <;> exact ⟨rfl, rfl⟩

theorem encodes_dpShReg : Encodes (decodeDpShReg (opcodeWord op) c s rn rd rs ty rm)
    (dpShRegWord c op (isTestOpcode op || s) rn rd rs ty rm) := by
  obtain ⟨n, hn, rfl⟩ := exists_numeral op
  interval_cases n <;> exact ⟨rfl, rfl⟩

/-! Back from the word, a test with S = 0 left aside. -/

variable (h : (isTestOpcode op && !s) = false)
include h

theorem decode_dpImmWord :
    decode (dpImmWord c op s rn rd rot imm) = .ok (decodeDpImm (opcodeWord op) c s rn rd rot imm) := by
  rw [decode_class1 (by simp [dpImmWord]), decodeClass1,
    if_neg (by rw [testWithoutS_iff]; simpa [dpImmWord, flag] using h)]
  simp [dpImmWord, flag, decodeDpImm, condOf]

theorem decode_dpShImmWord :
    decode (dpShImmWord c op s rn rd amt ty rm) = .ok (decodeDpShImm (opcodeWord op) c s rn rd amt ty rm) := by
  rw [decode_class0 (by simp [dpShImmWord]), decodeClass0, if_neg (by simp [dpShImmWord, flag]),
    if_neg (by rw [testWithoutS_iff]; simpa [dpShImmWord, flag] using h), if_neg (by simp [dpShImmWord, flag])]
  simp [dpShImmWord, flag, decodeDpShImm, condOf]

theorem decode_dpShRegWord :
    decode (dpShRegWord c op s rn rd rs ty rm) = .ok (decodeDpShReg (opcodeWord op) c s rn rd rs ty rm) := by
  rw [decode_class0 (by simp [dpShRegWord]), decodeClass0, if_neg (by simp [dpShRegWord, flag]),
    if_neg (by rw [testWithoutS_iff]; simpa [dpShRegWord, flag] using h), if_pos (by simp [dpShRegWord, flag])]
  simp [dpShRegWord, flag, decodeDpShReg, condOf]

end

/-! ## Single data transfers (rule R189) -/

section
variable (p b w l : Bool) (c : Cond) (up : Bool) (rn rd : RegNo) (off : BitVec 12) (amt : BitVec 5) (ty : ShiftType)
  (rm : RegNo)

/-- A single transfer with an immediate offset. -/
def transferImmWord : Word :=
  BitVec.ofNat 32 (put 28 c.bits + put 25 0b010#3 + put 24 (BitVec.ofBool p) + put 23 (BitVec.ofBool up) +
    put 22 (BitVec.ofBool b) + put 21 (BitVec.ofBool w) + put 20 (BitVec.ofBool l) + put 16 rn + put 12 rd + put 0 off)

/-- A single transfer with a register offset. -/
def transferRegWord : Word :=
  BitVec.ofNat 32 (put 28 c.bits + put 25 0b011#3 + put 24 (BitVec.ofBool p) + put 23 (BitVec.ofBool up) +
    put 22 (BitVec.ofBool b) + put 21 (BitVec.ofBool w) + put 20 (BitVec.ofBool l) + put 16 rn + put 12 rd + put 7 amt +
    put 5 ty.bits + put 4 0#1 + put 0 rm)

theorem encodes_transferImm :
    Encodes (decodeTransferImm p b w l c up rn rd off) (transferImmWord p b w l c up rn rd off) := by
  cases p <;> cases b <;> cases l <;> cases w <;> exact ⟨rfl, rfl⟩

theorem encodes_transferReg :
    Encodes (decodeTransferReg p b w l c up rn rd amt ty rm) (transferRegWord p b w l c up rn rd amt ty rm) := by
  cases p <;> cases b <;> cases l <;> cases w <;> exact ⟨rfl, rfl⟩

theorem decode_transferImmWord :
    decode (transferImmWord p b w l c up rn rd off) = .ok (decodeTransferImm p b w l c up rn rd off) := by
  rw [decode_class2 (by simp [transferImmWord])]
  simp [transferImmWord, flag, condOf]

theorem decode_transferRegWord :
    decode (transferRegWord p b w l c up rn rd amt ty rm) = .ok (decodeTransferReg p b w l c up rn rd amt ty rm) := by
  rw [decode_class3 (by simp [transferRegWord]), if_neg (by simp [transferRegWord, flag])]
  simp [transferRegWord, flag, condOf]

end

/-! ## Register transfers of a coprocessor (rules R50, R195, R398) -/

/-- A word with a CRn and nothing else: all that the coprocessor 15 tables of the decoder look at. -/
def crnWord (crn : BitVec 4) : Word := BitVec.ofNat 32 (put 16 crn + put 0 0#16)

@[simp] theorem field_crnWord (crn : BitVec 4) : field (crnWord crn) 16 4 = crn := by
  rw [crnWord, put_add_put (by decide), field_put (by decide), BitVec.extractLsb'_append_eq_left]

@[simp] theorem field_crnWord_low (crn : BitVec 4) : field (crnWord crn) 16 3 = crn.extractLsb' 0 3 := by
  rw [← field_crnWord crn, extractLsb'_field (by decide), field_crnWord]

section
variable (c : Cond) (opc : BitVec 3) (l : Bool) (crn rd cp : BitVec 4) (info : BitVec 3) (crm : BitVec 4)

/-- MRC (`l`) and MCR. -/
def registerTransferWord : Word :=
  BitVec.ofNat 32 (put 28 c.bits + put 24 0b1110#4 + put 21 opc + put 20 (BitVec.ofBool l) + put 16 crn + put 12 rd +
    put 8 cp + put 5 info + put 4 1#1 + put 0 crm)

variable (crn3 : BitVec 3)

theorem encode_mrcHigh :
    encode (.mrcHigh c opc crn3 rd info crm) = registerTransferWord c opc true (1#1 ++ crn3) rd 15#4 info crm := by
  rw [registerTransferWord, ← put_add_put (hi := 19) rfl, ← Nat.add_assoc]
  rfl

theorem encode_mcrHigh :
    encode (.mcrHigh c opc crn3 rd info crm) = registerTransferWord c opc false (1#1 ++ crn3) rd 15#4 info crm := by
  rw [registerTransferWord, ← put_add_put (hi := 19) rfl, ← Nat.add_assoc]
  rfl

theorem encodes_mrc15 :
    Encodes (decodeMrc15 (crnWord crn) c opc rd info crm) (registerTransferWord c opc true crn rd 15#4 info crm) := by
  obtain ⟨n, hn, rfl⟩ := exists_numeral crn
  rcases lt_or_ge n 8 with h | h
  · interval_cases n <;> exact ⟨rfl, rfl⟩
  · interval_cases n <;> exact ⟨encode_mrcHigh .., rfl⟩

theorem encodes_mcr15 :
    Encodes (decodeMcr15 (crnWord crn) c opc rd info crm) (registerTransferWord c opc false crn rd 15#4 info crm) := by
  obtain ⟨n, hn, rfl⟩ := exists_numeral crn
  rcases lt_or_ge n 8 with h | h
  · interval_cases n <;> exact ⟨rfl, rfl⟩
  · interval_cases n <;> exact ⟨encode_mcrHigh .., rfl⟩

theorem decode_mrc15Word : decode (registerTransferWord c opc true crn rd 15#4 info crm) =
    .ok (decodeMrc15 (crnWord crn) c opc rd info crm) := by
  rw [decode_class7 (by simp [registerTransferWord]), if_neg (by simp [registerTransferWord, flag])]
  simp [decodeCoprocessor, registerTransferWord, flag, condOf, decodeMrc15]

theorem decode_mcr15Word : decode (registerTransferWord c opc false crn rd 15#4 info crm) =
    .ok (decodeMcr15 (crnWord crn) c opc rd info crm) := by
  rw [decode_class7 (by simp [registerTransferWord]), if_neg (by simp [registerTransferWord, flag])]
  simp [decodeCoprocessor, registerTransferWord, flag, condOf, decodeMcr15]

theorem decodeMrc15_high : decodeMrc15 (crnWord (1#1 ++ crn3)) c opc rd info crm = .mrcHigh c opc crn3 rd info crm := by
  obtain ⟨n, hn, rfl⟩ := exists_numeral crn3
  interval_cases n <;> rfl

theorem decodeMcr15_high : decodeMcr15 (crnWord (1#1 ++ crn3)) c opc rd info crm = .mcrHigh c opc crn3 rd info crm := by
  obtain ⟨n, hn, rfl⟩ := exists_numeral crn3
  interval_cases n <;> rfl

end

/-! ## MUL, MLA, SWP and SWPB (rules R187, R192) -/

/-- Bits [24:22] cannot be 000 where bits [24:23] are 10: MUL and MLA stand apart from SWP and SWPB. -/
theorem decodeMultiplySwap_swap {w : Word} {c : Cond}
    (h : field w 5 2 = 0#2 ∧ field w 23 2 = 2#2 ∧ field w 20 2 = 0#2) :
    decodeMultiplySwap w c =
      if flag w 22 then .ok (.swpb c (field w 16 4) (field w 12 4) (field w 0 4) (field w 8 4))
      else .ok (.swp c (field w 16 4) (field w 12 4) (field w 0 4) (field w 8 4)) := by
  have h22 : field w 22 3 ≠ 0#3 := fun e => by
    have := extractLsb'_field (w := w) (lo := 22) (len := 3) (i := 1) (n := 2) (by decide)
    rw [e, h.2.1] at this
    exact absurd this (by decide)
  rw [decodeMultiplySwap, if_neg (fun e => h22 e.2), if_pos h]

end Sys2Proof.Encoding
end

section
/-! SUPPORT. From an instruction to its word and back: the statement O1. -/

namespace Sys2Proof.Encoding

/-- Settles O1: the instructions of a shared format through that format, the others by the decoder's branch for their
class. -/
theorem decodeEncode : Obligations.DecodeEncode := by
  intro i h
  cases i with
  | andImm c s rn rd rot imm => exact decode_dpImmWord c 0#4 s rn rd rot imm rfl
  | andShImm c s rn rd amt ty rm => exact decode_dpShImmWord c 0#4 s rn rd amt ty rm rfl
  | andShReg c s rn rd rs ty rm => exact decode_dpShRegWord c 0#4 s rn rd rs ty rm rfl
  | eorImm c s rn rd rot imm => exact decode_dpImmWord c 1#4 s rn rd rot imm rfl
  | eorShImm c s rn rd amt ty rm => exact decode_dpShImmWord c 1#4 s rn rd amt ty rm rfl
  | eorShReg c s rn rd rs ty rm => exact decode_dpShRegWord c 1#4 s rn rd rs ty rm rfl
  | subImm c s rn rd rot imm => exact decode_dpImmWord c 2#4 s rn rd rot imm rfl
  | subShImm c s rn rd amt ty rm => exact decode_dpShImmWord c 2#4 s rn rd amt ty rm rfl
  | subShReg c s rn rd rs ty rm => exact decode_dpShRegWord c 2#4 s rn rd rs ty rm rfl
  | rsbImm c s rn rd rot imm => exact decode_dpImmWord c 3#4 s rn rd rot imm rfl
  | rsbShImm c s rn rd amt ty rm => exact decode_dpShImmWord c 3#4 s rn rd amt ty rm rfl
  | rsbShReg c s rn rd rs ty rm => exact decode_dpShRegWord c 3#4 s rn rd rs ty rm rfl
  | addImm c s rn rd rot imm => exact decode_dpImmWord c 4#4 s rn rd rot imm rfl
  | addShImm c s rn rd amt ty rm => exact decode_dpShImmWord c 4#4 s rn rd amt ty rm rfl
  | addShReg c s rn rd rs ty rm => exact decode_dpShRegWord c 4#4 s rn rd rs ty rm rfl
  | adcImm c s rn rd rot imm => exact decode_dpImmWord c 5#4 s rn rd rot imm rfl
  | adcShImm c s rn rd amt ty rm => exact decode_dpShImmWord c 5#4 s rn rd amt ty rm rfl
  | adcShReg c s rn rd rs ty rm => exact decode_dpShRegWord c 5#4 s rn rd rs ty rm rfl
  | sbcImm c s rn rd rot imm => exact decode_dpImmWord c 6#4 s rn rd rot imm rfl
  | sbcShImm c s rn rd amt ty rm => exact decode_dpShImmWord c 6#4 s rn rd amt ty rm rfl
  | sbcShReg c s rn rd rs ty rm => exact decode_dpShRegWord c 6#4 s rn rd rs ty rm rfl
  | rscImm c s rn rd rot imm => exact decode_dpImmWord c 7#4 s rn rd rot imm rfl
  | rscShImm c s rn rd amt ty rm => exact decode_dpShImmWord c 7#4 s rn rd amt ty rm rfl
  | rscShReg c s rn rd rs ty rm => exact decode_dpShRegWord c 7#4 s rn rd rs ty rm rfl
  | tstImm c rn rd rot imm => exact decode_dpImmWord c 8#4 true rn rd rot imm rfl
  | tstShImm c rn rd amt ty rm => exact decode_dpShImmWord c 8#4 true rn rd amt ty rm rfl
  | tstShReg c rn rd rs ty rm => exact decode_dpShRegWord c 8#4 true rn rd rs ty rm rfl
  | teqImm c rn rd rot imm => exact decode_dpImmWord c 9#4 true rn rd rot imm rfl
  | teqShImm c rn rd amt ty rm => exact decode_dpShImmWord c 9#4 true rn rd amt ty rm rfl
  | teqShReg c rn rd rs ty rm => exact decode_dpShRegWord c 9#4 true rn rd rs ty rm rfl
  | cmpImm c rn rd rot imm => exact decode_dpImmWord c 10#4 true rn rd rot imm rfl
  | cmpShImm c rn rd amt ty rm => exact decode_dpShImmWord c 10#4 true rn rd amt ty rm rfl
  | cmpShReg c rn rd rs ty rm => exact decode_dpShRegWord c 10#4 true rn rd rs ty rm rfl
  | cmnImm c rn rd rot imm => exact decode_dpImmWord c 11#4 true rn rd rot imm rfl
  | cmnShImm c rn rd amt ty rm => exact decode_dpShImmWord c 11#4 true rn rd amt ty rm rfl
  | cmnShReg c rn rd rs ty rm => exact decode_dpShRegWord c 11#4 true rn rd rs ty rm rfl
  | orrImm c s rn rd rot imm => exact decode_dpImmWord c 12#4 s rn rd rot imm rfl
  | orrShImm c s rn rd amt ty rm => exact decode_dpShImmWord c 12#4 s rn rd amt ty rm rfl
  | orrShReg c s rn rd rs ty rm => exact decode_dpShRegWord c 12#4 s rn rd rs ty rm rfl
  | movImm c s rn rd rot imm => exact decode_dpImmWord c 13#4 s rn rd rot imm rfl
  | movShImm c s rn rd amt ty rm => exact decode_dpShImmWord c 13#4 s rn rd amt ty rm rfl
  | movShReg c s rn rd rs ty rm => exact decode_dpShRegWord c 13#4 s rn rd rs ty rm rfl
  | bicImm c s rn rd rot imm => exact decode_dpImmWord c 14#4 s rn rd rot imm rfl
  | bicShImm c s rn rd amt ty rm => exact decode_dpShImmWord c 14#4 s rn rd amt ty rm rfl
  | bicShReg c s rn rd rs ty rm => exact decode_dpShRegWord c 14#4 s rn rd rs ty rm rfl
  | mvnImm c s rn rd rot imm => exact decode_dpImmWord c 15#4 s rn rd rot imm rfl
  | mvnShImm c s rn rd amt ty rm => exact decode_dpShImmWord c 15#4 s rn rd amt ty rm rfl
  | mvnShReg c s rn rd rs ty rm => exact decode_dpShRegWord c 15#4 s rn rd rs ty rm rfl
  | ldrImmPre c up w rn rd off => exact decode_transferImmWord true false w true c up rn rd off
  | ldrImmPost c up rn rd off => exact decode_transferImmWord false false false true c up rn rd off
  | ldrRegPre c up w rn rd amt ty rm => exact decode_transferRegWord true false w true c up rn rd amt ty rm
  | ldrRegPost c up rn rd amt ty rm => exact decode_transferRegWord false false false true c up rn rd amt ty rm
  | ldrbImmPre c up w rn rd off => exact decode_transferImmWord true true w true c up rn rd off
  | ldrbImmPost c up rn rd off => exact decode_transferImmWord false true false true c up rn rd off
  | ldrbRegPre c up w rn rd amt ty rm => exact decode_transferRegWord true true w true c up rn rd amt ty rm
  | ldrbRegPost c up rn rd amt ty rm => exact decode_transferRegWord false true false true c up rn rd amt ty rm
  | strImmPre c up w rn rd off => exact decode_transferImmWord true false w false c up rn rd off
  | strImmPost c up rn rd off => exact decode_transferImmWord false false false false c up rn rd off
  | strRegPre c up w rn rd amt ty rm => exact decode_transferRegWord true false w false c up rn rd amt ty rm
  | strRegPost c up rn rd amt ty rm => exact decode_transferRegWord false false false false c up rn rd amt ty rm
  | strbImmPre c up w rn rd off => exact decode_transferImmWord true true w false c up rn rd off
  | strbImmPost c up rn rd off => exact decode_transferImmWord false true false false c up rn rd off
  | strbRegPre c up w rn rd amt ty rm => exact decode_transferRegWord true true w false c up rn rd amt ty rm
  | strbRegPost c up rn rd amt ty rm => exact decode_transferRegWord false true false false c up rn rd amt ty rm
  | ldrtImm c up rn rd off => exact decode_transferImmWord false false true true c up rn rd off
  | ldrtReg c up rn rd amt ty rm => exact decode_transferRegWord false false true true c up rn rd amt ty rm
  | ldrbtImm c up rn rd off => exact decode_transferImmWord false true true true c up rn rd off
  | ldrbtReg c up rn rd amt ty rm => exact decode_transferRegWord false true true true c up rn rd amt ty rm
  | strtImm c up rn rd off => exact decode_transferImmWord false false true false c up rn rd off
  | strtReg c up rn rd amt ty rm => exact decode_transferRegWord false false true false c up rn rd amt ty rm
  | strbtImm c up rn rd off => exact decode_transferImmWord false true true false c up rn rd off
  | strbtReg c up rn rd amt ty rm => exact decode_transferRegWord false true true false c up rn rd amt ty rm
  | mrcId c opc rd info crm => exact decode_mrc15Word c opc 0#4 rd info crm
  | mcrControl c opc rd info crm => exact decode_mcr15Word c opc 1#4 rd info crm
  | mcrTtb c opc rd info crm => exact decode_mcr15Word c opc 2#4 rd info crm
  | mcrDac c opc rd info crm => exact decode_mcr15Word c opc 3#4 rd info crm
  | mrcFsr c opc rd info crm => exact decode_mrc15Word c opc 5#4 rd info crm
  | mcrFlushTlb c opc rd info crm => exact decode_mcr15Word c opc 5#4 rd info crm
  | mrcFar c opc rd info crm => exact decode_mrc15Word c opc 6#4 rd info crm
  | mcrPurgeTlb c opc rd info crm => exact decode_mcr15Word c opc 6#4 rd info crm
  | mcrFlushIdc c opc rd info crm => exact decode_mcr15Word c opc 7#4 rd info crm
  | mcrC0 c opc rd info crm => exact decode_mcr15Word c opc 0#4 rd info crm
  | mrcC1 c opc rd info crm => exact decode_mrc15Word c opc 1#4 rd info crm
  | mrcC2 c opc rd info crm => exact decode_mrc15Word c opc 2#4 rd info crm
  | mrcC3 c opc rd info crm => exact decode_mrc15Word c opc 3#4 rd info crm
  | mrcC4 c opc rd info crm => exact decode_mrc15Word c opc 4#4 rd info crm
  | mcrC4 c opc rd info crm => exact decode_mcr15Word c opc 4#4 rd info crm
  | mrcC7 c opc rd info crm => exact decode_mrc15Word c opc 7#4 rd info crm
  | mrcHigh c opc crn rd info crm => rw [encode_mrcHigh, decode_mrc15Word, decodeMrc15_high]
  | mcrHigh c opc crn rd info crm => rw [encode_mcrHigh, decode_mcr15Word, decodeMcr15_high]
  | mul | mla =>
    rw [decode_class0 (by simp [encode])]
    simp [decodeClass0, decodeMultiplySwap, encode, flag, condOf]
  | swp | swpb =>
    rw [decode_class0 (by simp [encode]), decodeClass0, if_pos (by simp [encode, flag]),
      decodeMultiplySwap_swap (by simp [encode])]
    simp [encode, flag, condOf]
  | mrs | msrPsr | msrFlagsReg =>
    rw [decode_class0 (by simp [encode])]
    simp [decodeClass0, decodePsrRegister, encode, flag, condOf]
  | msrFlagsImm =>
    rw [decode_class1 (by simp [encode])]
    simp [decodeClass1, encode, flag, condOf]
  | undefined =>
    rw [decode_class3 (by simp [encode])]
    simp [encode, flag, condOf]
  | ldm | ldmPc | ldmPcRestore | ldmUser | stm | stmUser =>
    rw [decode_class4 (by simp [encode])]
    simp [decodeBlock, encode, flag, condOf]
  | b | bl =>
    rw [decode_class5 (by simp [encode])]
    simp [encode, flag, condOf]
  | ldc | stc =>
    rw [decode_class6 (by simp [encode])]
    simp [encode, flag, condOf]
  | swi =>
    rw [decode_class7 (by simp [encode])]
    simp [encode, flag, condOf]
  | cdp =>
    rw [decode_class7 (by simp [encode])]
    simp [decodeCoprocessor, encode, flag, condOf]
  | mrc c opc crn rd cp info crm | mcr c opc crn rd cp info crm =>
    have hcp : cp ≠ 15#4 := by simpa [Instr.encodable] using h
    rw [decode_class7 (by simp [encode])]
    simp [decodeCoprocessor, encode, flag, condOf, hcp]

end Sys2Proof.Encoding
end

section
/-! SUPPORT. From a word to its instruction and back: the statement O2.  In each branch of the decoder the fields it read and
the bits it tested are put back at their places, and together they are the word. -/

namespace Sys2Proof.Encoding

section
variable {w : Word} {i : Instr}

/-! ### What the fields of a word hold, put back at their places -/

theorem field_of_flag {k : Nat} (h : flag w k = true) : field w k 1 = 1#1 := by simpa [flag] using h

theorem field_of_not_flag {k : Nat} (h : ¬ flag w k = true) : field w k 1 = 0#1 := by
  rw [← ofBool_flag, Bool.eq_false_of_not_eq_true h]; rfl

theorem put_of_field {lo n : Nat} {v : BitVec n} (h : field w lo n = v) : put lo v = put lo (field w lo n) := by rw [h]

theorem put_of_flag {k : Nat} (h : flag w k = true) : put k 1#1 = put k (field w k 1) := put_of_field (field_of_flag h)

theorem put_of_not_flag {k : Nat} (h : ¬ flag w k = true) : put k 0#1 = put k (field w k 1) :=
  put_of_field (field_of_not_flag h)

/-! ### Class 000 -/

theorem encodes_multiplySwap (h25 : field w 25 3 = 0#3) (h7 : flag w 7 = true) (h4 : flag w 4 = true)
    (h : decodeMultiplySwap w (condOf w) = .ok i) : Encodes i w := by
  have low : field w 5 2 = 0#2 → field w 4 4 = 0b1001#4 := fun h5 => by
    rw [field_split w 4 3 1, field_split w 5 1 2, field_of_flag h7, field_of_flag h4, h5]; rfl
  rw [decodeMultiplySwap] at h
  split at h
  next hmul =>
    obtain ⟨h5, h22⟩ := hmul
    have high : field w 22 6 = 0#6 := by rw [field_split w 22 3 3, h25, h22]; rfl
    split at h
    next h21 =>
      cases h
      exact ⟨by simp [-put_add_put, encode, put_of_field (low h5), put_of_field high, put_of_flag h21], rfl⟩
    next h21 =>
      cases h
      exact ⟨by simp [-put_add_put, encode, put_of_field (low h5), put_of_field high, put_of_not_flag h21], rfl⟩
  next =>
    split at h
    next hswap =>
      obtain ⟨h5, h23, h20⟩ := hswap
      have high : field w 23 5 = 0b00010#5 := by rw [field_split w 23 3 2, h25, h23]; rfl
      split at h
      next h22 =>
        cases h
        exact ⟨by simp [-put_add_put, encode, put_of_field (low h5), put_of_field high, put_of_field h20,
          put_of_flag h22], rfl⟩
      next h22 =>
        cases h
        exact ⟨by simp [-put_add_put, encode, put_of_field (low h5), put_of_field high, put_of_field h20,
          put_of_not_flag h22], rfl⟩
    next => cases h

theorem encodes_psrRegister (h25 : field w 25 3 = 0#3) (h23 : field w 23 2 = 2#2)
    (h : decodePsrRegister w (condOf w) = .ok i) : Encodes i w := by
  have high : field w 23 5 = 0b00010#5 := by rw [field_split w 23 3 2, h25, h23]; rfl
  rw [decodePsrRegister] at h
  split at h
  next hmrs =>
    obtain ⟨h16, h0⟩ := hmrs
    cases h
    exact ⟨by simp [-put_add_put, encode, put_of_field high, put_of_field h16, put_of_field h0], rfl⟩
  next =>
    split at h
    next hmsr =>
      obtain ⟨h12, h4⟩ := hmsr
      cases h
      exact ⟨by simp [-put_add_put, encode, put_of_field high, put_of_field h12, put_of_field h4], rfl⟩
    next =>
      split at h
      next hmsr =>
        obtain ⟨h12, h4⟩ := hmsr
        cases h
        exact ⟨by simp [-put_add_put, encode, put_of_field high, put_of_field h12, put_of_field h4], rfl⟩
      next => cases h

/-- Outside the words that R200 sets aside a test has S = 1. -/
theorem test_or_flag (h : ¬ (field w 23 2 = 2#2 ∧ field w 20 1 = 0#1)) :
    (isTestOpcode (field w 21 4) || flag w 20) = flag w 20 := by
  rw [testWithoutS_iff] at h
  cases hs : flag w 20 <;> simp_all

theorem encodes_class0 (h25 : field w 25 3 = 0#3) (h : decodeClass0 w (condOf w) = .ok i) : Encodes i w := by
  rw [decodeClass0] at h
  split at h
  next h74 =>
    obtain ⟨h7, h4⟩ := Bool.and_eq_true_iff.1 h74
    exact encodes_multiplySwap h25 h7 h4 h
  next h74 =>
    split at h
    next hpsr => exact encodes_psrRegister h25 hpsr.1 h
    next hdp =>
      split at h
      next h4 =>
        have h7 : ¬ flag w 7 = true := fun h7 => h74 (by rw [h7, h4]; rfl)
        cases h
        have he := encodes_dpShReg (condOf w) (field w 21 4) (flag w 20) (field w 16 4) (field w 12 4) (field w 8 4)
          (ShiftType.ofBits (field w 5 2)) (field w 0 4)
        rw [test_or_flag hdp] at he
        convert he using 1
        · simp [decodeDpShReg]
        · simp [-put_add_put, dpShRegWord, put_of_field h25, put_of_not_flag h7, put_of_flag h4]
      next h4 =>
        cases h
        have he := encodes_dpShImm (condOf w) (field w 21 4) (flag w 20) (field w 16 4) (field w 12 4) (field w 7 5)
          (ShiftType.ofBits (field w 5 2)) (field w 0 4)
        rw [test_or_flag hdp] at he
        convert he using 1
        · simp [decodeDpShImm]
        · simp [-put_add_put, dpShImmWord, put_of_field h25, put_of_not_flag h4]

/-! ### Class 001 -/

theorem encodes_class1 (h25 : field w 25 3 = 1#3) (h : decodeClass1 w (condOf w) = .ok i) : Encodes i w := by
  rw [decodeClass1] at h
  split at h
  next hpsr =>
    split at h
    next h12 =>
      have high : field w 23 5 = 0b00110#5 := by rw [field_split w 23 3 2, h25, hpsr.1]; rfl
      cases h
      exact ⟨by simp [-put_add_put, encode, put_of_field high, put_of_field h12], rfl⟩
    next => cases h
  next hdp =>
    cases h
    have he := encodes_dpImm (condOf w) (field w 21 4) (flag w 20) (field w 16 4) (field w 12 4) (field w 8 4) (field w 0 8)
    rw [test_or_flag hdp] at he
    convert he using 1
    · simp [decodeDpImm]
    · simp [-put_add_put, dpImmWord, put_of_field h25]

/-! ### Classes 010 and 011 -/

theorem encodes_class2 (h25 : field w 25 3 = 2#3) : Encodes (decodeTransferImm (flag w 24) (flag w 22) (flag w 21)
    (flag w 20) (condOf w) (flag w 23) (field w 16 4) (field w 12 4) (field w 0 12)) w := by
  convert encodes_transferImm .. using 1
  simp [-put_add_put, transferImmWord, put_of_field h25]

theorem encodes_transferRegFields (h25 : field w 25 3 = 3#3) (h4 : ¬ flag w 4 = true) :
    Encodes (decodeTransferReg (flag w 24) (flag w 22) (flag w 21) (flag w 20) (condOf w) (flag w 23) (field w 16 4)
      (field w 12 4) (field w 7 5) (ShiftType.ofBits (field w 5 2)) (field w 0 4)) w := by
  convert encodes_transferReg .. using 1
  simp [-put_add_put, transferRegWord, put_of_field h25, put_of_not_flag h4]

/-! ### Class 100 -/

theorem encodes_block (h25 : field w 25 3 = 4#3) : Encodes (decodeBlock w (condOf w)) w := by
  rw [decodeBlock]
  split
  next h20 =>
    split
    next h22 =>
      split
      next h15 =>
        exact ⟨by simp [-put_add_put, encode, put_of_field h25, put_of_flag h20, put_of_flag h22, put_of_flag h15], rfl⟩
      next h15 =>
        exact ⟨by simp [-put_add_put, encode, put_of_field h25, put_of_flag h20, put_of_flag h22,
          put_of_not_flag h15], rfl⟩
    next h22 =>
      split
      next h15 =>
        exact ⟨by simp [-put_add_put, encode, put_of_field h25, put_of_flag h20, put_of_not_flag h22,
          put_of_flag h15], rfl⟩
      next h15 =>
        exact ⟨by simp [-put_add_put, encode, put_of_field h25, put_of_flag h20, put_of_not_flag h22,
          put_of_not_flag h15], rfl⟩
  next h20 =>
    split
    next h22 => exact ⟨by simp [-put_add_put, encode, put_of_field h25, put_of_not_flag h20, put_of_flag h22], rfl⟩
    next h22 => exact ⟨by simp [-put_add_put, encode, put_of_field h25, put_of_not_flag h20, put_of_not_flag h22], rfl⟩

/-! ### Class 111 -/

theorem encodes_coprocessor (h25 : field w 25 3 = 7#3) (h24 : ¬ flag w 24 = true) :
    Encodes (decodeCoprocessor w (condOf w)) w := by
  have high : field w 24 4 = 0b1110#4 := by rw [field_split w 24 3 1, h25, field_of_not_flag h24]; rfl
  rw [decodeCoprocessor]
  split
  next h4 =>
    split
    next h8 =>
      split
      next h20 =>
        convert encodes_mrc15 (condOf w) (field w 21 3) (field w 16 4) (field w 12 4) (field w 5 3) (field w 0 4) using 1
        · simp [decodeMrc15, extractLsb'_field]
        · simp [-put_add_put, registerTransferWord, put_of_field high, put_of_field h8, put_of_flag h20, put_of_flag h4]
      next h20 =>
        convert encodes_mcr15 (condOf w) (field w 21 3) (field w 16 4) (field w 12 4) (field w 5 3) (field w 0 4) using 1
        · simp [decodeMcr15, extractLsb'_field]
        · simp [-put_add_put, registerTransferWord, put_of_field high, put_of_field h8, put_of_not_flag h20, put_of_flag h4]
    next h8 =>
      have hcp : (field w 8 4 != 15#4) = true := by simpa using h8
      split
      next h20 => exact ⟨by simp [-put_add_put, encode, put_of_field high, put_of_flag h20, put_of_flag h4], hcp⟩
      next h20 => exact ⟨by simp [-put_add_put, encode, put_of_field high, put_of_not_flag h20, put_of_flag h4], hcp⟩
  next h4 => exact ⟨by simp [-put_add_put, encode, put_of_field high, put_of_not_flag h4], rfl⟩

end

/-- Settles O2: class by class, every bit of the word goes into a field or is one that the class fixes. -/
theorem encodeDecode : Obligations.EncodeDecode := by
  intro w i h
  change Encodes i w
  rcases field_class_cases w with h25 | h25 | h25 | h25 | h25 | h25 | h25 | h25
  · exact encodes_class0 h25 (decode_class0 h25 ▸ h)
  · exact encodes_class1 h25 (decode_class1 h25 ▸ h)
  · rw [decode_class2 h25] at h
    cases h
    exact encodes_class2 h25
  · rw [decode_class3 h25] at h
    split at h
    next h4 =>
      cases h
      exact ⟨by simp [-put_add_put, encode, put_of_field h25, put_of_flag h4], rfl⟩
    next h4 =>
      cases h
      exact encodes_transferRegFields h25 h4
  · rw [decode_class4 h25] at h
    cases h
    exact encodes_block h25
  · rw [decode_class5 h25] at h
    split at h
    next h24 =>
      cases h
      exact ⟨by simp [-put_add_put, encode, put_of_field h25, put_of_flag h24], rfl⟩
    next h24 =>
      cases h
      exact ⟨by simp [-put_add_put, encode, put_of_field h25, put_of_not_flag h24], rfl⟩
  · rw [decode_class6 h25] at h
    split at h
    next h20 =>
      cases h
      exact ⟨by simp [-put_add_put, encode, put_of_field h25, put_of_flag h20], rfl⟩
    next h20 =>
      cases h
      exact ⟨by simp [-put_add_put, encode, put_of_field h25, put_of_not_flag h20], rfl⟩
  · rw [decode_class7 h25] at h
    split at h
    next h24 =>
      have high : field w 24 4 = 0b1111#4 := by rw [field_split w 24 3 1, h25, field_of_flag h24]; rfl
      cases h
      exact ⟨by simp [-put_add_put, encode, put_of_field high], rfl⟩
    next h24 =>
      cases h
      exact encodes_coprocessor h25 h24

end Sys2Proof.Encoding
end

section
/-! SUPPORT. The words that are no instruction, and the samples: the statements O3 and O4. -/

namespace Sys2Proof.Encoding

section
variable {w : Word} {c : Cond} {why : DecodeReject}

theorem decodeMultiplySwap_error : decodeMultiplySwap w c = .error why ↔
    .multiplySpace = why ∧ ¬ (field w 22 3 = 0#3 ∧ field w 5 2 = 0#2) ∧
      ¬ (field w 23 2 = 2#2 ∧ field w 20 2 = 0#2 ∧ field w 5 2 = 0#2) := by
  simp only [decodeMultiplySwap, and_comm (a := field w 5 2 = 0#2), and_assoc]
  split
  next hmul => split <;> simp [hmul]
  next hmul =>
    split
    next hswap => split <;> simp [hswap]
    next hswap => simp only [Except.error.injEq, hmul, hswap, not_false_eq_true, and_true]

theorem decodePsrRegister_error : decodePsrRegister w c = .error why ↔
    .psrTransferSpace = why ∧ ¬ (field w 16 6 = 0b001111#6 ∧ field w 0 12 = 0#12) ∧
      ¬ (field w 12 10 = 0b1010011111#10 ∧ field w 4 8 = 0#8) ∧
      ¬ (field w 12 10 = 0b1010001111#10 ∧ field w 4 8 = 0#8) := by
  rw [decodePsrRegister]
  split
  next hmrs => simp [hmrs]
  next hmrs =>
    split
    next hmsr => simp [hmsr]
    next hmsr =>
      split
      next hflags => simp [hflags]
      next hflags => simp only [Except.error.injEq, hmrs, hmsr, hflags, not_false_eq_true, and_true]

theorem flag_eq_false {k : Nat} : flag w k = false ↔ field w k 1 = 0#1 := by
  rw [← ofBool_flag]
  cases flag w k <;> simp

theorem decodeClass0_error : decodeClass0 w c = .error why ↔
    ((flag w 7 = true ∧ flag w 4 = true) ∧ decodeMultiplySwap w c = .error why) ∨
      (¬ (flag w 7 = true ∧ flag w 4 = true) ∧ (field w 23 2 = 2#2 ∧ flag w 20 = false) ∧
        decodePsrRegister w c = .error why) := by
  simp only [decodeClass0, Bool.and_eq_true, ← flag_eq_false]
  split
  next h74 => simp [h74]
  next h74 =>
    split
    next hpsr => simp [h74, hpsr]
    next hpsr => split <;> simp [h74, hpsr]

theorem decodeClass1_error : decodeClass1 w c = .error why ↔
    .psrTransferSpace = why ∧ (field w 23 2 = 2#2 ∧ flag w 20 = false) ∧ field w 12 10 ≠ 0b1010001111#10 := by
  simp only [decodeClass1, ← flag_eq_false]
  split
  next hpsr => split <;> simp [*]
  next hpsr => simp [hpsr]

/-- Only classes 000 and 001 hold words that are no instruction. -/
theorem decode_error : decode w = .error why ↔
    (field w 25 3 = 0#3 ∧ decodeClass0 w (condOf w) = .error why) ∨
      (field w 25 3 = 1#3 ∧ decodeClass1 w (condOf w) = .error why) := by
  rcases field_class_cases w with h25 | h25 | h25 | h25 | h25 | h25 | h25 | h25
  · simp [decode_class0 h25, h25]
  · simp [decode_class1 h25, h25]
  · simp [decode_class2 h25, h25]
  · rw [decode_class3 h25]
    split <;> simp [h25]
  · simp [decode_class4 h25, h25]
  · rw [decode_class5 h25]
    split <;> simp [h25]
  · rw [decode_class6 h25]
    split <;> simp [h25]
  · rw [decode_class7 h25]
    split <;> simp [h25]

theorem class0_iff : field w 25 3 = 0#3 ↔ field w 26 2 = 0#2 ∧ flag w 25 = false := by
  rw [field_split w 25 2 1, ← ofBool_flag]
  generalize field w 26 2 = k, flag w 25 = b
  revert k b
  decide

theorem class1_iff : field w 25 3 = 1#3 ↔ field w 26 2 = 0#2 ∧ flag w 25 = true := by
  rw [field_split w 25 2 1, ← ofBool_flag]
  generalize field w 26 2 = k, flag w 25 = b
  revert k b
  decide

end

/-- Settles O3: the decoder's errors, collected from its branches. -/
theorem undefinedWords : Obligations.UndefinedWords := by
  intro w
  simp only [← field_eq_extractLsb', ← flag_eq_getLsbD, decode_error, decodeClass0_error, decodeMultiplySwap_error,
    decodePsrRegister_error, decodeClass1_error, reduceCtorEq, false_and, and_false, false_or, or_false, true_and]
  refine ⟨by simp only [and_assoc], ?_⟩
  rw [class0_iff, class1_iff]
  constructor
  · rintro (⟨⟨h26, h25⟩, h74, ⟨h23, h20⟩, hno⟩ | ⟨⟨h26, h25⟩, ⟨h23, h20⟩, hno⟩)
    · exact ⟨h26, h23, h20, .inl ⟨h25, h74, hno⟩⟩
    · exact ⟨h26, h23, h20, .inr ⟨h25, hno⟩⟩
  · rintro ⟨h26, h23, h20, ⟨h25, h74, hno⟩ | ⟨h25, hno⟩⟩
    · exact .inl ⟨⟨h26, h25⟩, h74, ⟨h23, h20⟩, hno⟩
    · exact .inr ⟨⟨h26, h25⟩, ⟨h23, h20⟩, hno⟩

/-- Settles O4: the decoder is run on each sample. -/
theorem sampleWords : Obligations.SampleWords := by
  unfold Obligations.SampleWords
  and_intros <;> rfl

end Sys2Proof.Encoding
end

section
/-! SUPPORT. How a data processing instruction ends that does not write R15: the statement O17. -/

namespace Sys2Proof.Machine

theorem State.flags_advance (s : State) : s.advance.flags = s.flags := by simp [State.flags]

theorem State.flags_write (s : State) (md : Mode) (n : RegNo) (v : Word) : (s.write md n v).flags = s.flags := by
  simp [State.flags]

theorem State.flags_setFlagsIf (s : State) (on : Bool) (f : Flags) :
    (s.setFlagsIf on f).flags = if on then f else s.flags := by
  cases on <;> simp [State.flags]

/-- `s` has set its flags to `f` if `on` and gone on to `t`, whatever has become of the registers (rules R250, R251). -/
structure State.FlagsDone (s t : State) (on : Bool) (f : Flags) : Prop where
  rest : t.cpsr.extractLsb' 0 28 = s.cpsr.extractLsb' 0 28
  flags : t.flags = if on then f else s.flags
  special : s.KeepsSpecial t
  memory : s.KeepsMemory t
  wentOn : s.WentOn t

section
variable (s : State) (md : Mode) (n : RegNo) (v : Word) (on : Bool) (f : Flags)

theorem State.setFlagsIf_advance_done : s.FlagsDone (s.setFlagsIf on f).advance on f where
  rest := by cases on <;> simp
  flags := by rw [State.flags_advance, State.flags_setFlagsIf]
  special := ⟨fun m => by simp, by simp⟩
  memory := fun a => by simp
  wentOn := ⟨by simp, by simp⟩

/-- A register write before it changes nothing of that. -/
theorem State.write_setFlagsIf_advance_done : s.FlagsDone ((s.write md n v).setFlagsIf on f).advance on f where
  rest := by simpa using ((s.write md n v).setFlagsIf_advance_done on f).rest
  flags := by rw [State.flags_advance, State.flags_setFlagsIf, State.flags_write]
  special := ⟨fun m => by simp, by simp⟩
  memory := fun a => by simp [MemSys.physByte]
  wentOn := ⟨by simp, by simp⟩

theorem State.setFlagsIf_advance_keepsRegs : s.KeepsRegs (s.setFlagsIf on f).advance := fun p => by simp

/-- The register written holds the value and every other is as before. -/
theorem State.write_setFlagsIf_advance_regs :
    s.KeepsRegsBut ((s.write md n v).setFlagsIf on f).advance md n ∧
      ((s.write md n v).setFlagsIf on f).advance.Holds md n v := by
  refine ⟨fun p => (em (md.bank n = some p)).imp_right fun hp => ?_, fun p hp => ?_⟩
  · rw [State.preg_advance, State.preg_setFlagsIf, State.preg_write, if_neg hp]
  · rw [State.preg_advance, State.preg_setFlagsIf, State.preg_write, if_pos hp]

end

theorem dpResult_value (op : DpOp) (rn : RegNo) (o : Operand2) (s : State) (md : Mode) :
    (dpResult op rn o s md).value = op.table (s.read md rn o.ahead) (o.value s md).value s.flags.c :=
  op.compute_value ..

/-- The flags of the end state are those of the operation's class, where S = 1 sets them. -/
theorem State.FlagsDone.flagsAre {op : DpOp} {rn : RegNo} {o : Operand2} {s t : State} {md : Mode} {on : Bool}
    (h : s.FlagsDone t on (dpResult op rn o s md).flags) :
    if on then op.FlagsAre (s.read md rn o.ahead) (o.value s md).value (o.value s md).carry s.flags t.flags
    else t.flags = s.flags := by
  rw [h.flags]
  split
  · exact op.compute_flags ..
  · rfl

/-- Settles O17: a test sets the flags and goes on, any other operation writes Rd first. -/
theorem dataProcessingCompletes : Obligations.DataProcessingCompletes := by
  intro i op c sBit rn rd o s md hv hs ho hrd
  rw [exec_eq_meaning, hv, View.meaning, dataProcessing, hs.run, ho, if_neg Bool.false_ne_true, dpFinish, if_neg hrd,
    if_neg hrd]
  split
  next htest =>
    have done := s.setFlagsIf_advance_done sBit (dpResult op rn o s md).flags
    exact ⟨_, rfl, s.setFlagsIf_advance_keepsRegs _ _, done.rest, done.flagsAre, done.special, done.memory, done.wentOn⟩
  next htest =>
    have done := s.write_setFlagsIf_advance_done md rd (dpResult op rn o s md).value sBit (dpResult op rn o s md).flags
    refine ⟨_, rfl, ?_, done.rest, done.flagsAre, done.special, done.memory, done.wentOn⟩
    rw [← dpResult_value]
    exact s.write_setFlagsIf_advance_regs ..

end Sys2Proof.Machine
end

section
/-! SUPPORT. The conditions and what a branch does: the table on the bits, the orders after CMP, an instruction that is skipped, B
and BL; the statements O12, O13, O18, O45. -/

namespace Sys2Proof.Machine

/-! ## The condition table (rule R230) -/

/-- Settles O12: bits [31:28] are those of one of the sixteen conditions, and the table has a row for each. -/
theorem conditionTable : Obligations.ConditionTable := by
  intro w s
  rw [← Encoding.field_eq_extractLsb', ← Encoding.bits_condOf]
  cases condOf w <;> rfl

/-! ## A condition that fails (rule R231) -/

/-- Settles O13: every instruction stands behind its condition, and a skipped one only goes on. -/
theorem conditionFails : Obligations.ConditionFails := by
  intro i s md hs hc
  obtain ⟨body, he⟩ := exec_conditionally i s
  exact ⟨s.advance, he.trans (hs.skip hc body), s.advance_keeps⟩

/-! ## The orders after a comparison (rules R230, R251, R270) -/

/-- The flags `f` order `a` and `b`: Z is equality, C the unsigned order, and N equal to V the signed order. -/
structure Flags.Order (f : Flags) (a b : Word) : Prop where
  equal : f.z = true ↔ a = b
  unsigned : f.c = true ↔ b.toNat ≤ a.toNat
  signed : f.n = f.v ↔ b.toInt ≤ a.toInt

/-- The sign of the difference cut to 32 bits is wrong exactly where the exact difference does not fit. -/
theorem toInt_sub_neg_iff (a b : Word) :
    ((a - b).toInt < 0 ↔ ¬ (-2 ^ 31 ≤ a.toInt - b.toInt ∧ a.toInt - b.toInt < 2 ^ 31)) ↔ b.toInt ≤ a.toInt := by
  have ha := a.toInt_lt
  have ha' := a.le_toInt
  have hb := b.toInt_lt
  have hb' := b.le_toInt
  rw [BitVec.toInt_sub, Int.bmod_def]
  norm_num at *
  split <;> omega

theorem compute_cmp_order (a b : Word) (shc : Bool) (old : Flags) :
    (DpOp.cmp.compute a b shc old).flags.Order a b := by
  obtain ⟨hn, hz, hc, hv⟩ := DpOp.cmp.compute_flags a b shc old
  exact
    { equal := hz.trans sub_eq_zero
      unsigned := hc
      signed := by rw [Bool.eq_iff_iff, hn, hv]; exact toInt_sub_neg_iff a b }

section
variable {f : Flags} {a b : Word}

theorem Flags.Order.hi (h : f.Order a b) : conditionHolds .hi f = true ↔ b.toNat < a.toNat := by
  have hz := h.equal.trans BitVec.toNat_inj.symm
  simp only [conditionHolds, Bool.and_eq_true, Bool.not_eq_true', ← Bool.not_eq_true, h.unsigned, hz]
  omega

theorem Flags.Order.gt (h : f.Order a b) : conditionHolds .gt f = true ↔ b.toInt < a.toInt := by
  have hz := h.equal.trans BitVec.toInt_inj.symm
  simp only [conditionHolds, Bool.and_eq_true, Bool.not_eq_true', ← Bool.not_eq_true, beq_iff_eq, h.signed, hz]
  omega

end

/-- The conditions of odd number negate those before them. -/
theorem conditionHolds_negated (f : Flags) :
    conditionHolds .ne f = !conditionHolds .eq f ∧ conditionHolds .cc f = !conditionHolds .cs f ∧
      conditionHolds .ls f = !conditionHolds .hi f ∧ conditionHolds .lt f = !conditionHolds .ge f ∧
      conditionHolds .le f = !conditionHolds .gt f := by
  simp [conditionHolds, bne]

/-- Settles O18: EQ, CS, HI, GE and GT are read off the flags, and each of the others negates one of these. -/
theorem compareOrders : Obligations.CompareOrders := by
  intro a b shc old f
  have order : f.Order a b := compute_cmp_order a b shc old
  have ge : conditionHolds .ge f = true ↔ b.toInt ≤ a.toInt := beq_iff_eq.trans order.signed
  obtain ⟨ne, cc, ls, lt, le⟩ := conditionHolds_negated f
  have negated {c c' : Cond} {p : Prop} (hc : conditionHolds c' f = !conditionHolds c f)
      (h : conditionHolds c f = true ↔ p) : conditionHolds c' f = true ↔ ¬ p := by
    rw [hc, Bool.not_eq_true', ← Bool.not_eq_true, h]
  exact ⟨order.equal, negated ne order.equal,
    order.unsigned, (negated cc order.unsigned).trans not_le,
    order.hi, (negated ls order.hi).trans not_lt,
    ge, (negated lt ge).trans not_le,
    order.gt, (negated le order.gt).trans not_lt⟩

/-! ## Branch and branch with link (rules R232 to R234) -/

/-- Two 0 bits below the offset and its sign above make four times its value (rule R232). -/
theorem branchTarget_eq (s : State) (off : BitVec 24) :
    branchTarget s off = s.pc + 8#32 + BitVec.ofInt 32 (4 * off.toInt) := by
  rw [branchTarget, BitVec.signExtend, BitVec.toInt_append]
  simp

theorem isAligned_branchTarget {s : State} (h : isAligned s.pc = true) (off : BitVec 24) :
    isAligned (branchTarget s off) = true := by
  rw [isAligned_iff] at h ⊢
  rw [branchTarget_eq, BitVec.toNat_add, BitVec.toNat_add, BitVec.toNat_ofInt, BitVec.toNat_ofNat]
  omega

theorem alignWord_of_isAligned {a : Word} (h : isAligned a = true) : alignWord a = a :=
  calc a &&& 0xFFFFFFFC#32
      = (a &&& 3#32) ||| (a &&& 0xFFFFFFFC#32) := by rw [beq_iff_eq.1 h, BitVec.zero_or]
    _ = a &&& (3#32 ||| 0xFFFFFFFC#32) := (BitVec.and_or_distrib_left ..).symm
    _ = a := BitVec.and_allOnes

/-- `t` is `s` with the pc at `target` and nothing prefetched, whatever has become of the registers (rule R32). -/
structure State.JumpDone (s t : State) (target : Word) : Prop where
  pc : t.pc = target
  cpsr : t.cpsr = s.cpsr
  bankHazard : t.bankHazard = false
  pipe : t.sys.pipe = []
  special : s.KeepsSpecial t
  memory : s.KeepsMemory t

theorem State.jump_done (s : State) {v : Word} (hv : isAligned v = true) : s.JumpDone (s.jump v) v where
  pc := by rw [State.jump_pc, alignWord_of_isAligned hv]
  cpsr := by simp
  bankHazard := by simp
  pipe := by simp
  special := ⟨fun m => by simp, by simp⟩
  memory := fun a => by simp

/-- A register write before it changes nothing of that. -/
theorem State.write_jump_done (s : State) (md : Mode) (n : RegNo) (x : Word) {v : Word} (hv : isAligned v = true) :
    s.JumpDone ((s.write md n x).jump v) v := by
  obtain ⟨hpc, hcpsr, hhazard, hpipe, ⟨hspsr, hcp15⟩, hmem⟩ := (s.write md n x).jump_done hv
  simp only [State.write_cpsr, State.spsr_write, State.write_cp15, State.KeepsMemory, State.write_sys] at hcpsr hspsr hcp15 hmem
  exact ⟨hpc, hcpsr, hhazard, hpipe, ⟨hspsr, hcp15⟩, hmem⟩

/-- The register written holds the value and every other is as before. -/
theorem State.write_jump_regs (s : State) (md : Mode) (n : RegNo) (x v : Word) :
    s.KeepsRegsBut ((s.write md n x).jump v) md n ∧ ((s.write md n x).jump v).Holds md n x := by
  refine ⟨fun p => (em (md.bank n = some p)).imp_right fun hp => ?_, fun p hp => ?_⟩
  · rw [State.preg_jump, State.preg_write, if_neg hp]
  · rw [State.preg_jump, State.preg_write, if_pos hp]

/-- Settles O45: both jump to the target, which is aligned, and BL writes the link first. -/
theorem branchCompletes : Obligations.BranchCompletes := by
  intro i link c off s md hv hs hpc
  have aligned := isAligned_branchTarget hpc off
  rw [exec_eq_meaning, hv, ← branchTarget_eq]
  cases link with
  | false =>
    obtain ⟨pc, cpsr, hazard, pipe, special, memory⟩ := s.jump_done aligned
    exact ⟨_, hs.run _, pc, fun p => s.preg_jump _ p, cpsr, hazard, pipe, special, memory⟩
  | true =>
    obtain ⟨pc, cpsr, hazard, pipe, special, memory⟩ := s.write_jump_done md 14#4 (s.pc + 4#32) aligned
    exact ⟨_, hs.run _, pc, s.write_jump_regs md _ _ _, cpsr, hazard, pipe, special, memory⟩

end Sys2Proof.Machine
end

section
/-! SUPPORT. The shifter: each kind of shift by an amount in the instruction and by the bottom byte of a register; the
statements O19 and O21. -/

namespace Sys2Proof.Machine

/-! ## Shifts by an amount in the instruction (rules R242 to R245) -/

section
variable {n : BitVec 5} (m : Word) (c : Bool)

theorem shiftByImmediate_lsl (h : n ≠ 0#5) :
    shiftByImmediate .lsl n m c = ⟨m <<< n.toNat, m.getLsbD (32 - n.toNat)⟩ :=
  if_neg h

theorem shiftByImmediate_lsr (h : n ≠ 0#5) :
    shiftByImmediate .lsr n m c = ⟨m >>> n.toNat, m.getLsbD (n.toNat - 1)⟩ :=
  if_neg h

theorem shiftByImmediate_asr (h : n ≠ 0#5) :
    shiftByImmediate .asr n m c = ⟨m.sshiftRight n.toNat, m.getLsbD (n.toNat - 1)⟩ :=
  if_neg h

theorem shiftByImmediate_ror (h : n ≠ 0#5) :
    shiftByImmediate .ror n m c = ⟨m.rotateRight n.toNat, m.getLsbD (n.toNat - 1)⟩ :=
  if_neg h

end

theorem toNat_pos_of_ne_zero {n : BitVec 5} (h : n ≠ 0#5) : 0 < n.toNat :=
  Nat.pos_of_ne_zero fun e => h (BitVec.eq_of_toNat_eq e)

/-- The last bit to fall off a rotation comes back at the top. -/
theorem rotateRight_getLsbD_31 (m : Word) {k : Nat} (h0 : 0 < k) (hk : k < 32) :
    (m.rotateRight k).getLsbD 31 = m.getLsbD (k - 1) := by
  rw [BitVec.getLsbD_rotateRight, Nat.mod_eq_of_lt hk, decide_eq_false (by omega), show 31 - (32 - k) = k - 1 by omega]
  simp

/-- An arithmetic shift divides, rounding down. -/
theorem sshiftRight_toInt (m : Word) (k : Nat) : (m.sshiftRight k).toInt = m.toInt / 2 ^ k := by
  rw [BitVec.toInt_sshiftRight, Int.shiftRight_eq_div_pow]
  norm_cast

/-- ASR #32 leaves the sign alone, as a shift by 31 does: a word divided by 2^32 and by 2^31 is 0 or -1. -/
theorem sshiftRight_31_toInt (m : Word) : (m.sshiftRight 31).toInt = m.toInt / 2 ^ 32 := by
  have hlt := m.toInt_lt
  have hle := m.le_toInt
  rw [sshiftRight_toInt]
  norm_num at *
  omega

/-- Settles O19: each kind by its equation, for the amount 0 and for the amounts 1 to 31. -/
theorem immediateShifts : Obligations.ImmediateShifts := by
  intro n m c
  refine ⟨?_, fun h => ?_, ?_, ?_⟩
  · rintro rfl
    exact ⟨rfl, rfl⟩
  · have hpos := toNat_pos_of_ne_zero h
    have hror := rotateRight_getLsbD_31 m hpos n.isLt
    rw [shiftByImmediate_lsl m c h, shiftByImmediate_lsr m c h, shiftByImmediate_ror m c h]
    refine ⟨?_, rfl, ?_, rfl, ?_, rfl, hror.symm⟩
    · rw [BitVec.toNat_shiftLeft, Nat.shiftLeft_eq]
    · rw [BitVec.toNat_ushiftRight, Nat.shiftRight_eq_div_pow]
    · rw [BitVec.rotateRight_def, Nat.mod_eq_of_lt n.isLt]
  · split
    next h => exact h ▸ sshiftRight_31_toInt m
    next h => exact shiftByImmediate_asr m c h ▸ sshiftRight_toInt m n.toNat
  · split
    next h => exact h ▸ rfl
    next h => rw [shiftByImmediate_asr m c h]

/-! ## Shifts by the bottom byte of a register (rule R248) -/

section
variable {n : Nat} (m : Word) (c : Bool)

theorem shiftByRegister_lsl (h : 0 < n) (hn : n ≤ 32) : shiftByRegister .lsl n m c = ⟨m <<< n, m.getLsbD (32 - n)⟩ :=
  (if_neg h.ne').trans (if_pos hn)

theorem shiftByRegister_lsl_of_gt (h : 32 < n) : shiftByRegister .lsl n m c = ⟨0, false⟩ :=
  (if_neg (by omega)).trans (if_neg (by omega))

theorem shiftByRegister_lsr (h : 0 < n) (hn : n ≤ 32) : shiftByRegister .lsr n m c = ⟨m >>> n, m.getLsbD (n - 1)⟩ :=
  (if_neg h.ne').trans (if_pos hn)

theorem shiftByRegister_lsr_of_gt (h : 32 < n) : shiftByRegister .lsr n m c = ⟨0, false⟩ :=
  (if_neg (by omega)).trans (if_neg (by omega))

theorem shiftByRegister_asr (h : 0 < n) (hn : n < 32) :
    shiftByRegister .asr n m c = ⟨m.sshiftRight n, m.getLsbD (n - 1)⟩ :=
  (if_neg h.ne').trans (if_pos hn)

theorem shiftByRegister_asr_of_ge (h : 32 ≤ n) : shiftByRegister .asr n m c = ⟨m.sshiftRight 31, m.getLsbD 31⟩ :=
  (if_neg (by omega)).trans (if_neg (by omega))

theorem shiftByRegister_ror (h : 0 < n) :
    shiftByRegister .ror n m c = ⟨m.rotateRight (n % 32), m.getLsbD ((n - 1) % 32)⟩ :=
  if_neg h.ne'

/-- The bytes 1 to 31 shift as the same amount in the instruction. -/
theorem shiftByRegister_eq_shiftByImmediate (ty : ShiftType) (h : 0 < n) (hn : n ≤ 31) :
    shiftByRegister ty n m c = shiftByImmediate ty (BitVec.ofNat 5 n) m c := by
  have hval : (BitVec.ofNat 5 n).toNat = n := Nat.mod_eq_of_lt (by omega)
  have hne : BitVec.ofNat 5 n ≠ 0#5 := fun e => h.ne' (hval ▸ congrArg BitVec.toNat e)
  cases ty with
  | lsl => rw [shiftByImmediate_lsl m c hne, hval, shiftByRegister_lsl m c h (by omega)]
  | lsr => rw [shiftByImmediate_lsr m c hne, hval, shiftByRegister_lsr m c h (by omega)]
  | asr => rw [shiftByImmediate_asr m c hne, hval, shiftByRegister_asr m c h (by omega)]
  | ror =>
    rw [shiftByImmediate_ror m c hne, hval, shiftByRegister_ror m c h, Nat.mod_eq_of_lt (by omega),
      Nat.mod_eq_of_lt (by omega)]

end

/-- A word shifted right by 31 with its sign is its sign, repeated. -/
theorem sshiftRight_31 (m : Word) : m.sshiftRight 31 = if m.getLsbD 31 then 0xFFFFFFFF#32 else 0 := by
  have hsign := getLsbD_31_iff m
  have hlt := m.toInt_lt
  have hle := m.le_toInt
  apply BitVec.eq_of_toInt_eq
  rw [sshiftRight_toInt]
  norm_num at hlt hle ⊢
  split
  next h =>
    have hneg := hsign.1 h
    rw [show (0xFFFFFFFF#32).toInt = -1 by decide]
    omega
  next h =>
    have hneg := mt hsign.2 h
    rw [show (0 : Word).toInt = 0 by decide]
    omega

/-- Settles O21: the ranges of the byte, in each the value that the branch of the shift leaves. -/
theorem registerShifts : Obligations.RegisterShifts := by
  intro ty n m c _
  refine ⟨?_, fun h hn => shiftByRegister_eq_shiftByImmediate m c ty h hn, ?_, fun h => ?_, fun h => ?_⟩
  · rintro rfl
    rfl
  · rintro rfl
    refine ⟨?_, ?_, ?_⟩
    · rw [shiftByRegister_lsl m c (by decide) le_rfl, BitVec.shiftLeft_eq_zero le_rfl]; rfl
    · rw [shiftByRegister_lsr m c (by decide) le_rfl, BitVec.ushiftRight_eq_zero le_rfl]; rfl
    · rw [shiftByRegister_ror m c (by decide), show m.rotateRight (32 % 32) = m by simp [BitVec.rotateRight_def]]
  · refine ⟨shiftByRegister_lsl_of_gt m c h, shiftByRegister_lsr_of_gt m c h, ?_⟩
    rw [shiftByRegister_ror m c (by omega), shiftByRegister_ror m c (by omega),
      show n % 32 = (n - 32) % 32 by omega, show (n - 1) % 32 = (n - 32 - 1) % 32 by omega]
  · rw [shiftByRegister_asr_of_ge m c h, sshiftRight_31]

end Sys2Proof.Machine
end

section
/-! SUPPORT. The operand forms: registers as operands, operand 2, the offset and the base of a single transfer, the register list
and the addresses of a block transfer; the statement O22. -/

namespace Sys2Proof.Machine

/-! ## Registers as operands (rules R31, R249) -/

/-- R15 reads as the pc and what it is ahead; how far ahead is nothing to any other register. -/
theorem State.read_eq (s : State) (md : Mode) (n : RegNo) (ahead : Word) :
    s.read md n ahead = if n = 15#4 then s.pc + ahead else s.read md n 0#32 := by
  split
  next h => exact h ▸ rfl
  next h =>
    obtain ⟨p, hp⟩ := md.bank_isSome h
    simp only [State.read, State.readAs, hp]

theorem State.read_of_ne (s : State) (md : Mode) {n : RegNo} (h : n ≠ 15#4) (ahead : Word) :
    s.read md n ahead = s.read md n 0#32 := by
  rw [State.read_eq, if_neg h]

/-! ## Operand 2 (rules R241, R246, R247, R249) -/

theorem rotatedImmediate_toNat (rot : BitVec 4) (imm : BitVec 8) :
    (rotatedImmediate rot imm).toNat =
      imm.toNat / 2 ^ (2 * rot.toNat) + imm.toNat % 2 ^ (2 * rot.toNat) * 2 ^ (32 - 2 * rot.toNat) := by
  rw [rotatedImmediate, rotateRight_toNat _ (by omega), BitVec.toNat_setWidth_of_le (by decide)]

theorem rotatedImmediate_zero_toNat (imm : BitVec 8) : (rotatedImmediate 0#4 imm).toNat = imm.toNat := by
  rw [rotatedImmediate_toNat]
  simp [Nat.mod_one]

theorem immediateOperand_carry {rot : BitVec 4} (h : rot ≠ 0#4) (imm : BitVec 8) (c : Bool) :
    (immediateOperand rot imm c).carry = (immediateOperand rot imm c).value.getLsbD 31 :=
  if_neg h

theorem Operand2.shImm_value (s : State) (md : Mode) (amt : BitVec 5) (ty : ShiftType) (rm : RegNo) :
    (Operand2.shImm amt ty rm).value s md =
      shiftByImmediate ty amt (if rm = 15#4 then s.pc + 8#32 else s.read md rm 0#32) (s.cpsr.getLsbD 29) := by
  rw [← State.read_eq]
  rfl

theorem Operand2.shReg_value (s : State) (md : Mode) {rs : RegNo} (h : rs ≠ 15#4) (ty : ShiftType) (rm : RegNo) :
    (Operand2.shReg rs ty rm).value s md =
      shiftByRegister ty ((s.read md rs 0#32).toNat % 256)
        (if rm = 15#4 then s.pc + 12#32 else s.read md rm 0#32) (s.cpsr.getLsbD 29) := by
  rw [← State.read_eq, ← s.read_of_ne md h 12#32, Operand2.value, BitVec.extractLsb'_toNat, Nat.shiftRight_zero]
  rfl

/-- RRX: the 33 bits `C : m` rotated right by one. -/
theorem rrx_eq_rotateRight (m : Word) (c : Bool) :
    BitVec.ofBool (shiftByImmediate .ror 0#5 m c).carry ++ (shiftByImmediate .ror 0#5 m c).value =
      (BitVec.ofBool c ++ m : BitVec 33).rotateRight 1 := by
  change BitVec.ofBool (m.getLsbD 0) ++ (BitVec.ofBool c ++ m.extractLsb' 1 31 : BitVec (1 + 31)) = _
  apply BitVec.eq_of_getLsbD_eq
  intro i hi
  simp only [BitVec.getLsbD_rotateRight, BitVec.getLsbD_append, BitVec.getLsbD_extractLsb']
  rcases show i < 31 ∨ i = 31 ∨ i = 32 by omega with hlow | rfl | rfl
  · simp [hlow, show i < 32 by omega, show 1 + i < 32 by omega]
  · simp
  · simp

/-! ## Single transfers (rules R312, R318) -/

theorem Offset.imm_toNat (k : BitVec 12) (s : State) (md : Mode) : ((Offset.imm k).value s md).toNat = k.toNat :=
  BitVec.toNat_setWidth_of_le (by decide)

theorem Offset.reg_value (s : State) (md : Mode) (amt : BitVec 5) (ty : ShiftType) {rm : RegNo} (h : rm ≠ 15#4) :
    (Offset.reg amt ty rm).value s md = (shiftByImmediate ty amt (s.read md rm 0#32) (s.cpsr.getLsbD 29)).value := by
  rw [Offset.value, s.read_of_ne md h]
  rfl

theorem toNat_sub_eq (a b : Word) : (a - b).toNat = (a.toNat + 2 ^ 32 - b.toNat) % 2 ^ 32 := by
  rw [BitVec.toNat_sub]
  congr 1
  omega

theorem Mode.privileged_iff (md : Mode) : md.privileged = true ↔ md ≠ .usr := by
  simp [Mode.privileged]

/-! ## Block transfers (rule R341) -/

theorem listCount_eq_countP (list : BitVec 16) : listCount list = (List.range 16).countP list.getLsbD := by
  rw [listCount, listRegisters, ← List.countP_eq_length_filter,
    show List.range 16 = List.map BitVec.toNat [0#4, 1#4, 2#4, 3#4, 4#4, 5#4, 6#4, 7#4, 8#4, 9#4, 10#4, 11#4, 12#4, 13#4,
      14#4, 15#4] by decide, List.countP_map]
  rfl

theorem listCount_le (list : BitVec 16) : listCount list ≤ 16 := by
  rw [listCount_eq_countP]
  exact List.countP_le_length

theorem listBytes_toNat (list : BitVec 16) : (listBytes list).toNat = 4 * listCount list := by
  have := listCount_le list
  rw [listBytes, BitVec.toNat_ofNat]
  omega

theorem blockStart_decrementBefore (base : Word) (list : BitVec 16) :
    (blockStart true false base list).toNat = (base.toNat + 2 ^ 32 - 4 * listCount list) % 2 ^ 32 := by
  rw [← listBytes_toNat]
  exact toNat_sub_eq base (listBytes list)

theorem blockStart_decrementAfter (base : Word) (list : BitVec 16) :
    (blockStart false false base list).toNat = (base.toNat + 2 ^ 32 + 4 - 4 * listCount list) % 2 ^ 32 := by
  have hn := listCount_le list
  change (base - listBytes list + 4#32).toNat = _
  rw [BitVec.toNat_add, toNat_sub_eq, listBytes_toNat, BitVec.toNat_ofNat]
  omega

theorem blockFinal_up (base : Word) (list : BitVec 16) :
    (blockFinal true base list).toNat = (base.toNat + 4 * listCount list) % 2 ^ 32 := by
  rw [← listBytes_toNat]
  exact BitVec.toNat_add base (listBytes list)

/-- The k-th register of the list is transferred at `start + 4 * k`. -/
theorem blockAddress_of_get {list : BitVec 16} {k : Nat} {r : RegNo} (h : (listRegisters list)[k]? = some r) (s : State)
    (md : Mode) (pre up : Bool) (rn : RegNo) :
    blockAddress s md pre up rn list r = blockStart pre up (s.read md rn 8#32) list + BitVec.ofNat 32 (4 * k) := by
  rw [blockAddress, index_of_sorted _ (listRegisters_sorted list) k r h]

theorem listAddresses_of_get {list : BitVec 16} {k : Nat} {r : RegNo} (h : (listRegisters list)[k]? = some r) (s : State)
    (md : Mode) (pre up : Bool) (rn : RegNo) :
    (listAddresses s md pre up rn list)[k]? = some (blockAddress s md pre up rn list r) := by
  rw [listAddresses_eq, List.getElem?_map, h, Option.map_some]

/-! ## The statement -/

/-- Settles O22: the forms of operand 2, of single transfers and of block transfers, each by the lemmas above. -/
theorem operandForms : Obligations.OperandForms := by
  refine ⟨fun s md rot imm amt ty rs rm => ?_, fun s md up w rn rm off k amt ty => ?_, fun base list => ?_⟩
  · exact ⟨rotatedImmediate_zero_toNat imm, rfl,
      fun h => ⟨rotatedImmediate_toNat rot imm, immediateOperand_carry h imm s.flags.c⟩,
      Operand2.shImm_value s md amt ty rm, fun h => Operand2.shReg_value s md h ty rm, rfl, rfl, rfl, rrx_eq_rotateRight⟩
  · intro base
    have hbase : s.read md rn 8#32 = base := s.read_eq md rn 8#32
    rw [← hbase]
    exact ⟨Offset.imm_toNat k s md, fun h => Offset.reg_value s md amt ty h, BitVec.toNat_add .., toNat_sub_eq .., rfl, rfl,
      rfl, rfl, rfl, rfl, md.privileged_iff, md.privileged_iff, rfl⟩
  · refine ⟨listCount_eq_countP list, rfl, rfl, blockStart_decrementAfter base list, blockStart_decrementBefore base list,
      blockFinal_up base list, blockStart_decrementBefore base list, mem_listRegisters list, listRegisters_sorted list,
      fun s md pre up rn k r h => ?_⟩
    have haddress := blockAddress_of_get h s md pre up rn
    exact ⟨haddress ▸ listAddresses_of_get h s md pre up rn, haddress⟩

end Sys2Proof.Machine
end

section
/-! SUPPORT. Data processing with Rd = R15: the branch, the return with the SPSR, the P forms of the tests, and the return from an
exception that undoes its entry; the statements O23, O24, O49. -/

namespace Sys2Proof.Machine

/-! ## Reading through to the end of the instruction -/

/-- An executed data processing instruction ends as `dpFinish` says, unless R15 is its shift amount register (rule R240). -/
theorem exec_dp {i : Instr} {op : DpOp} {c : Cond} {sBit : Bool} {rn rd : RegNo} {o : Operand2} {s : State} {md : Mode}
    (hv : viewOf i = .dp op c sBit rn rd o) (hs : s.Executes md c) (ho : o.amountIsR15 = false) :
    exec i s = dpFinish op sBit rd (dpResult op rn o s md) s md := by
  rw [exec_eq_meaning, hv, View.meaning, dataProcessing, hs.run, ho, if_neg Bool.false_ne_true]

/-! ## A result written to R15 (rule R252) -/

/-- Bits [1:0] of a branch target play no part (rule R32). -/
theorem State.jump_alignWord (s : State) (v : Word) : s.jump (alignWord v) = s.jump v := by
  rw [State.jump, alignWord_of_isAligned (isAligned_alignWord v)]
  rfl

theorem State.jump_done_alignWord (s : State) (v : Word) : s.JumpDone (s.jump v) (alignWord v) :=
  s.jump_alignWord v ▸ s.jump_done (isAligned_alignWord v)

/-- With S = 1 there is an SPSR to restore in every mode but User mode. -/
theorem writePc_of_spsr {s : State} {md : Mode} {p : Word} (h : s.spsr md = some p) (v : Word) :
    writePc true v s md = .next (s.returnFrom p v) := by
  simp only [writePc, h, if_true]

/-- Settles O23: without S a jump; with S none in User mode, and in any other mode a jump with the SPSR in the CPSR. -/
theorem dataProcessingToPc : Obligations.DataProcessingToPc := by
  intro i op c sBit rn o s md hv hs ho htest
  rw [exec_dp hv hs ho, dpFinish, htest, if_neg Bool.false_ne_true, if_pos rfl, dpResult_value]
  refine ⟨fun ⟨hS, hmd⟩ => by subst hS hmd; rfl, fun hnot => ?_⟩
  cases sBit with
  | false =>
    obtain ⟨pc, cpsr, hazard, pipe, special, memory⟩ := s.jump_done_alignWord (op.table _ _ _)
    exact ⟨_, rfl, pc, cpsr, hazard, pipe, fun p => s.preg_jump _ p, special, memory⟩
  | true =>
    obtain ⟨p, hp⟩ := s.spsr_isSome fun hmd => hnot ⟨rfl, hmd⟩
    obtain ⟨pc, cpsr, hazard, pipe, special, memory⟩ := (s.setCpsr p).jump_done_alignWord (op.table _ _ _)
    exact ⟨_, writePc_of_spsr hp _, pc, hp.trans (congrArg some cpsr.symm), hazard, pipe,
      fun q => s.preg_returnFrom p _ q, special, memory⟩

/-! ## A test with Rd = R15 (rule R253) -/

/-- The P form sets the CPSR to the SPSR where there is one, and goes on. -/
theorem testToPsr_eq (s : State) (md : Mode) :
    testToPsr s md = .next (s.setCpsr ((s.spsr md).getD s.cpsr)).advance := by
  unfold testToPsr
  cases s.spsr md with
  | none => rfl
  | some p => rfl

/-! ## The return from an exception (rules R431, R439, R460) -/

/-- The mode of an exception reads its own link register. -/
theorem Exception.mode_bank_r14 (e : Exception) : e.mode.bank 14#4 = some e.mode.r14 := by
  cases e <;> rfl

theorem State.takeException_runs {s : State} {md : Mode} (h : s.Runs md) (e : Exception) :
    (s.takeException e).Runs e.mode := by
  obtain ⟨-, hprog, hdata⟩ := h
  exact ⟨(s.takeException_entered e).mode, by simpa using hprog, by simpa using hdata⟩

/-- R14 reads as the return value right after the entry. -/
theorem State.takeException_read_r14 (s : State) (e : Exception) (ahead : Word) :
    (s.takeException e).read e.mode 14#4 ahead = s.pc + e.returnOffset := by
  rw [State.read_of_bank (by simp) e.mode_bank_r14, (s.takeException_entered e).link]

/-- Settles O49: in the mode of the exception the SUBS is a return (O23), R14 less 4 is the old pc, and the SPSR the old
CPSR. -/
theorem returnUndoesEntry : Obligations.ReturnUndoesEntry := by
  intro s md e hs hpc he
  have entered := s.takeException_entered e
  have hoffset : e.returnOffset = 4#32 := by rcases he with rfl | rfl | rfl <;> rfl
  obtain ⟨-, hreturn⟩ := dataProcessingToPc (.subImm .al true 14#4 15#4 0#4 4#8) .sub .al true 14#4 (.imm 0#4 4#8)
    (s.takeException e) e.mode rfl ⟨s.takeException_runs hs e, rfl⟩ rfl rfl
  obtain ⟨t, ht, htpc, hcpsr, -, -, regs, ⟨spsrs, hcp15⟩, memory⟩ := hreturn fun h => e.mode_ne_usr h.2
  refine ⟨t, ht, ?_, ?_, fun p => (entered.regs p).imp_right (regs p).trans,
    fun m => (entered.spsrs m).imp_right (spsrs m).trans, ?_, fun a => ?_⟩
  · calc t.pc = alignWord (s.pc + 4#32 - 4#32) := by rw [htpc, s.takeException_read_r14 e, hoffset]; rfl
      _ = s.pc := by rw [BitVec.add_sub_cancel, alignWord_of_isAligned hpc]
  · exact Option.some.inj (hcpsr.symm.trans entered.saved)
  · rw [hcp15, State.takeException_cp15]
  · rw [memory a, State.physByte_takeException]

end Sys2Proof.Machine

namespace Sys2Proof.Proofs

open Machine

/-! ## The P form.  In `Sys2Proof.Machine` the statement's name is that of the operation. -/

/-- Settles O24: the P form, whatever the result of the test. -/
theorem testToPsr : Obligations.TestToPsr := by
  intro i op c sBit rn o s md hv hs ho htest
  rw [exec_dp hv hs ho, dpFinish, if_pos htest, if_pos rfl, testToPsr_eq]
  obtain ⟨regs, cpsr, special, memory, wentOn⟩ := (s.setCpsr ((s.spsr md).getD s.cpsr)).advance_keeps
  exact ⟨_, rfl, cpsr, regs, special, memory, wentOn⟩

end Sys2Proof.Proofs
end

section
/-! SUPPORT. The operand restrictions of data processing, PSR transfers, multiplies, swaps and single transfers: the statement
O53. -/

namespace Sys2Proof.Machine

section
variable {s : State} {md : Mode} {c : Cond}

/-! ## Data processing and PSR transfers (rules R248, R291 to R295) -/

theorem dataProcessing_amountIsR15 (hs : s.Executes md c) {o : Operand2} (ho : o.amountIsR15 = true) (op : DpOp)
    (sBit : Bool) (rn rd : RegNo) : dataProcessing op c sBit rn rd o s = .refused .shiftAmountR15 :=
  (hs.run _).trans (if_pos ho)

theorem moveFromPsr_r15 (hs : s.Executes md c) {rd : RegNo} (h : rd = 15#4) (sel : PsrSel) :
    moveFromPsr c sel rd s = .refused .psrTransferR15 :=
  (hs.run _).trans (if_pos h)

theorem moveFromPsr_noSpsr (hs : s.Executes md c) {rd : RegNo} (h : rd ≠ 15#4) {sel : PsrSel} (hsel : sel = .spsr)
    (hmd : md = .usr) : moveFromPsr c sel rd s = .refused .spsrInUserMode := by
  subst hsel hmd
  exact (hs.run _).trans (if_neg h)

theorem moveToPsr_r15 (hs : s.Executes md c) {rm : RegNo} (h : rm = 15#4) (sel : PsrSel) :
    moveToPsr c sel rm s = .refused .psrTransferR15 :=
  (hs.run _).trans (if_pos h)

theorem moveToPsr_noSpsr (hs : s.Executes md c) {rm : RegNo} (h : rm ≠ 15#4) {sel : PsrSel} (hsel : sel = .spsr)
    (hmd : md = .usr) : moveToPsr c sel rm s = .refused .spsrInUserMode := by
  subst hsel hmd
  exact (hs.run _).trans (if_neg h)

theorem moveToFlags_r15 (hs : s.Executes md c) {f : FlagSource} (h : f.isR15 = true) (sel : PsrSel) :
    moveToFlags c sel f s = .refused .psrTransferR15 :=
  (hs.run _).trans (if_pos h)

theorem moveToFlags_noSpsr (hs : s.Executes md c) {f : FlagSource} (h : f.isR15 = false) {sel : PsrSel}
    (hsel : sel = .spsr) (hmd : md = .usr) : moveToFlags c sel f s = .refused .spsrInUserMode := by
  subst hsel hmd
  exact (hs.run _).trans (if_neg (Bool.eq_false_iff.1 h))

/-! ## Multiplies and swaps (rules R304, R373) -/

theorem multiply_r15 (hs : s.Executes md c) {rd rs rm : RegNo} (h : rd = 15#4 ∨ rs = 15#4 ∨ rm = 15#4) (sBit : Bool) :
    multiply c sBit rd rs rm s = .refused .multiplyR15 :=
  (hs.run _).trans (if_pos h)

theorem multiplyAccumulate_r15 (hs : s.Executes md c) {rd rn rs rm : RegNo}
    (h : rd = 15#4 ∨ rs = 15#4 ∨ rm = 15#4 ∨ rn = 15#4) (sBit : Bool) :
    multiplyAccumulate c sBit rd rn rs rm s = .refused .multiplyR15 :=
  (hs.run _).trans (if_pos h)

theorem swap_r15 (hs : s.Executes md c) {rn rd rm : RegNo} (h : rd = 15#4 ∨ rn = 15#4 ∨ rm = 15#4) (sz : Size) :
    swap sz c rn rd rm s = .refused .swapR15 :=
  (hs.run _).trans (if_pos h)

/-! ## Single transfers (rules R322, R323) -/

variable {ix : Indexing} {rn rm : RegNo} {off : Offset}

theorem transferRestriction_writeBackR15 (hw : ix.writesBack = true) (hrn : rn = 15#4) :
    transferRestriction ix rn off = some .writeBackR15 := by
  simp [transferRestriction, hw, hrn]

/-- Past the restriction on write-back, a register offset has its own. -/
theorem transferRestriction_reg (h : ix.writesBack = true → rn ≠ 15#4) (amt : BitVec 5) (ty : ShiftType) :
    transferRestriction ix rn (.reg amt ty rm) =
      if rm = 15#4 then some .offsetR15 else if ix.isPre = false ∧ rm = rn then some .postIndexByBase else none := by
  have hbase : (ix.writesBack && rn == 15#4) = false := by simpa using h
  simp [transferRestriction, hbase]

/-- A load or a store of restricted operands is refused. -/
theorem exec_transfer_restricted {i : Instr} {sz : Size} {up : Bool} {rd : RegNo} {r : Refusal} (hs : s.Executes md c)
    (hv : viewOf i = .load sz c ix up rn rd off ∨ viewOf i = .store sz c ix up rn rd off)
    (h : transferRestriction ix rn off = some r) : exec i s = .refused r := by
  rcases hv with hv | hv
  · rw [exec_eq_meaning, hv, View.meaning, loadRegister, hs.run, h]
  · rw [exec_eq_meaning, hv, View.meaning, storeRegister, hs.run, h]

end

/-! ## The statement -/

theorem exec_of_viewOf {i : Instr} {v : View} {s : State} {r : Result} (hv : viewOf i = v) (h : v.meaning s = r) :
    exec i s = r := by
  rw [exec_eq_meaning, hv, h]

/-- Settles O53: each restriction is the first test of its family's meaning. -/
theorem restrictionsRefused : Obligations.RestrictionsRefused := by
  intro i s md c hs
  refine ⟨?dp, ?mrs, ?mrsUser, ?msr, ?msrUser, ?flags, ?flagsUser, ?mul, ?mla, ?swap, ?writeBack, ?offset⟩
  case dp =>
    exact fun op sb rn rd rs ty rm hv h =>
      exec_of_viewOf hv (dataProcessing_amountIsR15 hs (o := .shReg rs ty rm) (beq_iff_eq.2 h) op sb rn rd)
  case mrs => exact fun sel rd hv h => exec_of_viewOf hv (moveFromPsr_r15 hs h sel)
  case mrsUser => exact fun sel rd hv h hsel hmd => exec_of_viewOf hv (moveFromPsr_noSpsr hs h hsel hmd)
  case msr => exact fun sel rm hv h => exec_of_viewOf hv (moveToPsr_r15 hs h sel)
  case msrUser => exact fun sel rm hv h hsel hmd => exec_of_viewOf hv (moveToPsr_noSpsr hs h hsel hmd)
  case flags => exact fun sel f hv h => exec_of_viewOf hv (moveToFlags_r15 hs h sel)
  case flagsUser => exact fun sel f hv h hsel hmd => exec_of_viewOf hv (moveToFlags_noSpsr hs h hsel hmd)
  case mul => exact fun sb rd rs rm hv h => exec_of_viewOf hv (multiply_r15 hs h sb)
  case mla => exact fun sb rd rn rs rm hv h => exec_of_viewOf hv (multiplyAccumulate_r15 hs h sb)
  case swap => exact fun sz rn rd rm hv h => exec_of_viewOf hv (swap_r15 hs h sz)
  case writeBack =>
    exact fun sz ix up rn rd off hv hw hrn =>
      exec_transfer_restricted hs hv (transferRestriction_writeBackR15 hw hrn)
  case offset =>
    intro sz ix up rn rd amt ty rm hv hbase
    have hreg := transferRestriction_reg (rm := rm) hbase amt ty
    refine ⟨fun h => ?_, fun h hpost hrm => ?_⟩
    · exact exec_transfer_restricted hs hv (hreg.trans (if_pos h))
    · exact exec_transfer_restricted hs hv (hreg.trans ((if_neg h).trans (if_pos ⟨hpost, hrm⟩)))

end Sys2Proof.Machine
end

section
/-! SUPPORT. PSR transfers that are executed: what MRS delivers, and what a write of a PSR changes and leaves; the statements O25,
O26, O27. -/

namespace Sys2Proof.Machine

section
variable {s t : State} {md : Mode} {c : Cond} {sel : PsrSel} {i : Instr} {p v : Word}

/-! ## The PSR named (rules R186, R293) -/

theorem State.psr_eq (s : State) (md : Mode) (sel : PsrSel) :
    s.psr md sel = if sel = .cpsr then some s.cpsr else s.spsr md := by
  cases sel <;> rfl

/-- Only the SPSR in User mode is not there. -/
theorem State.psr_isSome (s : State) (h : sel = .spsr → md ≠ .usr) : ∃ p, s.psr md sel = some p := by
  cases sel with
  | cpsr => exact ⟨s.cpsr, rfl⟩
  | spsr => exact s.spsr_isSome (h rfl)

/-- `s` has put `v` into the PSR that `sel` names in mode `md`, changed nothing else, and gone on to `t`. -/
structure State.PsrWritten (s t : State) (md : Mode) (sel : PsrSel) (v : Word) : Prop where
  cpsr : t.cpsr = if sel = .cpsr then v else s.cpsr
  spsr : ∀ m, t.spsr m = if sel = .spsr ∧ m = md then some v else s.spsr m
  cp15 : t.cp15 = s.cp15
  regs : s.KeepsRegs t
  memory : s.KeepsMemory t
  wentOn : s.WentOn t

theorem State.setPsr_advance_written (s : State) (h : sel = .spsr → md ≠ .usr) (v : Word) :
    s.PsrWritten (s.setPsr md sel v).advance md sel v := by
  cases sel with
  | cpsr =>
    obtain ⟨regs, cpsr, ⟨spsrs, cp15⟩, memory, wentOn⟩ := (s.setCpsr v).advance_keeps
    exact ⟨cpsr, spsrs, cp15, regs, memory, wentOn⟩
  | spsr =>
    exact
      { cpsr := by simp [State.setPsr]
        spsr := fun m => by simp [State.setPsr, State.spsr_setSpsr, h rfl]
        cp15 := by simp [State.setPsr]
        regs := fun p => by simp [State.setPsr]
        memory := fun a => by simp [State.setPsr]
        wentOn := ⟨by simp [State.setPsr], by simp⟩ }

theorem State.PsrWritten.psr (h : s.PsrWritten t md sel v) : t.psr md sel = some v := by
  cases sel with
  | cpsr => exact congrArg some h.cpsr
  | spsr => exact (h.spsr md).trans (if_pos ⟨rfl, rfl⟩)

/-! ## Reading through to the end of the instruction -/

theorem exec_mrs {rd : RegNo} (hv : viewOf i = .mrs c sel rd) (hs : s.Executes md c) (hrd : rd ≠ 15#4)
    (hp : s.psr md sel = some p) : exec i s = .next (s.write md rd p).advance := by
  rw [exec_eq_meaning, hv, View.meaning, moveFromPsr, hs.run, if_neg hrd, hp]

theorem exec_msr_privileged {rm : RegNo} (hv : viewOf i = .msr c sel rm) (hs : s.Executes md c) (hrm : rm ≠ 15#4)
    (hmd : md ≠ .usr) : exec i s = .next (s.setPsr md sel (s.read md rm 8#32)).advance := by
  obtain ⟨p, hp⟩ := s.psr_isSome fun _ : sel = .spsr => hmd
  rw [exec_eq_meaning, hv, View.meaning, moveToPsr, hs.run, if_neg hrm, hp, Mode.privileged_of_ne hmd]
  rfl

/-- In User mode the control bits are protected from change, without a trap (rule R293). -/
theorem exec_msr_user {rm : RegNo} (hv : viewOf i = .msr c .cpsr rm) (hs : s.Executes .usr c) (hrm : rm ≠ 15#4) :
    exec i s =
      .next (s.setPsr .usr .cpsr (withFlagBits s.cpsr ((s.read .usr rm 8#32).extractLsb' 28 4))).advance := by
  rw [exec_eq_meaning, hv, View.meaning, moveToPsr, hs.run, if_neg hrm]
  rfl

theorem exec_msrFlags {f : FlagSource} (hv : viewOf i = .msrFlags c sel f) (hs : s.Executes md c) (hf : f.isR15 = false)
    (hp : s.psr md sel = some p) :
    exec i s = .next (s.setPsr md sel (withFlagBits p ((f.value s md).extractLsb' 28 4))).advance := by
  rw [exec_eq_meaning, hv, View.meaning, moveToFlags, hs.run, hf, if_neg Bool.false_ne_true, hp]

end

/-! ## MRS (rule R291) -/

/-- A register written and the instruction ended: the register holds the value and nothing else but the pc is changed, as after
a data processing operation with S = 0. -/
theorem State.write_advance_keeps (s : State) (md : Mode) (n : RegNo) (v : Word) :
    s.KeepsRegsBut (s.write md n v).advance md n ∧ (s.write md n v).advance.Holds md n v ∧
      (s.write md n v).advance.cpsr = s.cpsr ∧ s.KeepsSpecial (s.write md n v).advance ∧
      s.KeepsMemory (s.write md n v).advance ∧ s.WentOn (s.write md n v).advance := by
  obtain ⟨keeps, holds⟩ := s.write_setFlagsIf_advance_regs md n v false s.flags
  obtain ⟨-, -, special, memory, wentOn⟩ := s.write_setFlagsIf_advance_done md n v false s.flags
  exact ⟨keeps, holds, by simp, special, memory, wentOn⟩

/-- Settles O25: Rd gets the PSR that the instruction names. -/
theorem mrsCompletes : Obligations.MrsCompletes := by
  intro i c sel rd s md hv hs hrd hsel
  obtain ⟨p, hp⟩ := s.psr_isSome hsel
  obtain ⟨keeps, holds, rest⟩ := s.write_advance_keeps md rd p
  refine ⟨_, exec_mrs hv hs hrd hp, keeps, fun v hpsr => ?_, rest⟩
  have hpv : p = v := Option.some.inj (hp.symm.trans ((s.psr_eq md sel).trans hpsr))
  exact hpv ▸ holds

/-! ## MSR to a whole PSR (rules R292, R293) -/

/-- Settles O26: a privileged mode writes the whole of Rm; User mode has the CPSR alone to write, and writes its flags. -/
theorem msrCompletes : Obligations.MsrCompletes := by
  intro i c sel rm s md hv hs hrm hsel
  by_cases hmd : md = .usr
  · subst hmd
    cases sel with
    | spsr => exact absurd rfl (hsel rfl)
    | cpsr =>
      obtain ⟨cpsr, spsr, cp15, regs, memory, wentOn⟩ :=
        s.setPsr_advance_written hsel (withFlagBits s.cpsr ((s.read .usr rm 8#32).extractLsb' 28 4))
      exact ⟨_, exec_msr_user hv hs hrm, by rw [cpsr]; simp, by rw [cpsr]; simp, by simpa using spsr, cp15, regs, memory,
        wentOn⟩
  · obtain ⟨cpsr, spsr, cp15, regs, memory, wentOn⟩ := s.setPsr_advance_written hsel (s.read md rm 8#32)
    refine ⟨_, exec_msr_privileged hv hs hrm hmd, ?_, ?_, spsr, cp15, regs, memory, wentOn⟩
    · rw [cpsr, apply_ite (BitVec.extractLsb' 28 4)]
    · simp only [cpsr, apply_ite (BitVec.extractLsb' 0 28), hmd, ne_eq, not_false_eq_true, and_true]

/-! ## MSR to the flag bits (rules R294, R295) -/

/-- Settles O27: the PSR named gets the four bits of the source above its own bits [27:0]. -/
theorem msrFlagsCompletes : Obligations.MsrFlagsCompletes := by
  intro i c sel f s md hv hs hf hsel
  obtain ⟨p, hp⟩ := s.psr_isSome hsel
  have written := s.setPsr_advance_written hsel (withFlagBits p ((f.value s md).extractLsb' 28 4))
  refine ⟨?value, _, exec_msrFlags hv hs hf hp, fun v hpsr => ?psr, ?cpsr, fun m => ?spsr, written.cp15,
    written.regs, written.memory, written.wentOn⟩
  case value =>
    cases f with
    | reg rm => rfl
    | imm rot imm => exact rotatedImmediate_toNat rot imm
  case psr =>
    have hpv : p = v := Option.some.inj (hp.symm.trans ((s.psr_eq md sel).trans hpsr))
    rw [← State.psr_eq, written.psr, hpv, withFlagBits]
  case cpsr =>
    rintro rfl
    exact written.cpsr
  case spsr => exact or_iff_not_imp_left.2 fun h => (written.spsr m).trans (if_neg h)

end Sys2Proof.Machine
end

section
/-! SUPPORT. Multiplies that are executed: the product that Rd gets, the flags and the frame; the statement O28. -/

namespace Sys2Proof.Machine

/-- `s` has put the result `r` of a multiply into `R[rd]` of mode `md`, set the flags from it if `sBit`, with any C, changed
nothing else, and gone on to `t` (rules R301 to R303). -/
structure State.Multiplied (s t : State) (md : Mode) (rd : RegNo) (sBit : Bool) (r : Word) : Prop where
  regs : s.KeepsRegsBut t md rd
  result : t.Holds md rd r
  done : ∃ c, s.FlagsDone t sBit (multiplyFlags r c s.flags)

section
variable {s t : State} {md : Mode} {c : Cond} {sBit : Bool} {rd rn rs rm : RegNo} {r : Word}

/-! ## The end of a multiply (rule R303) -/

/-- Using up a free value changes nothing that can be seen. -/
theorem State.FlagsDone.of_draw {on : Bool} {f : Flags} (h : s.draw.2.FlagsDone t on f) : s.FlagsDone t on f := by
  obtain ⟨spsrs, cp15⟩ := h.special
  exact ⟨h.rest, h.flags, ⟨fun m => (spsrs m).trans (s.spsr_draw m), cp15⟩, h.memory, h.wentOn⟩

theorem State.Multiplied.of_draw (h : s.draw.2.Multiplied t md rd sBit r) : s.Multiplied t md rd sBit r :=
  ⟨h.regs, h.result, h.done.imp fun _ => State.FlagsDone.of_draw⟩

theorem State.write_setFlagsIf_advance_multiplied (s : State) (md : Mode) (rd : RegNo) (sBit : Bool) (r : Word) (c : Bool) :
    s.Multiplied ((s.write md rd r).setFlagsIf sBit (multiplyFlags r c s.flags)).advance md rd sBit r :=
  have ⟨regs, result⟩ := s.write_setFlagsIf_advance_regs md rd r sBit (multiplyFlags r c s.flags)
  ⟨regs, result, c, s.write_setFlagsIf_advance_done md rd r sBit _⟩

/-- With S = 1 the C flag is drawn before the result is written. -/
theorem multiplyFinish_multiplied (s : State) (md : Mode) (rd : RegNo) (sBit : Bool) (r : Word) :
    ∃ t, multiplyFinish sBit rd r s md = .next t ∧ s.Multiplied t md rd sBit r := by
  cases sBit with
  | true => exact ⟨_, rfl, (s.draw.2.write_setFlagsIf_advance_multiplied md rd true r (s.draw.1.getLsbD 0)).of_draw⟩
  | false => exact ⟨_, rfl, s.write_setFlagsIf_advance_multiplied md rd false r false⟩

/-- With S = 1, N and Z are those of the word that Rd holds. -/
theorem State.Multiplied.nz (h : s.Multiplied t md rd true r) {p : PReg} (hp : md.bank rd = some p) :
    (t.flags.n = true ↔ (t.preg p).toInt < 0) ∧ (t.flags.z = true ↔ t.preg p = 0) := by
  obtain ⟨_, done⟩ := h.done
  rw [h.result p hp, done.flags]
  exact ⟨getLsbD_31_iff r, beq_iff_eq⟩

theorem State.Multiplied.flags_v (h : s.Multiplied t md rd sBit r) : t.flags.v = s.flags.v := by
  obtain ⟨_, done⟩ := h.done
  rw [done.flags]
  cases sBit <;> rfl

/-! ## The results (rules R301, R302, R304) -/

/-- The result of MLA (of MUL, without `acc`) for Rd other than Rm: product and sum modulo 2^32. -/
def multiplyResult (acc : Bool) (rn rs rm : RegNo) (s : State) (md : Mode) : Word :=
  BitVec.ofNat 32 ((s.read md rm 8#32).toNat * (s.read md rs 8#32).toNat +
    if acc then (s.read md rn 8#32).toNat else 0)

theorem multiplyResult_mul (rn rs rm : RegNo) (s : State) (md : Mode) :
    multiplyResult false rn rs rm s md = s.read md rm 8#32 * s.read md rs 8#32 := by
  simp [multiplyResult, BitVec.ofNat_mul]

theorem multiplyResult_mla (rn rs rm : RegNo) (s : State) (md : Mode) :
    multiplyResult true rn rs rm s md = s.read md rm 8#32 * s.read md rs 8#32 + s.read md rn 8#32 := by
  simp [multiplyResult, BitVec.ofNat_add, BitVec.ofNat_mul]

theorem multiply_multiplied (hs : s.Executes md c) (hrd : rd ≠ 15#4) (hrs : rs ≠ 15#4) (hrm : rm ≠ 15#4) (sBit : Bool)
    (rn : RegNo) :
    ∃ t, multiply c sBit rd rs rm s = .next t ∧
      s.Multiplied t md rd sBit (if rd = rm then 0 else multiplyResult false rn rs rm s md) := by
  rw [multiply, hs.run, if_neg (by simp [hrd, hrs, hrm]), multiplyResult_mul]
  exact multiplyFinish_multiplied ..

/-- The value that MLA gives Rd = Rm is drawn, and nothing is said of it. -/
theorem multiplyAccumulate_multiplied (hs : s.Executes md c) (hrd : rd ≠ 15#4) (hrs : rs ≠ 15#4) (hrm : rm ≠ 15#4)
    (hrn : rn ≠ 15#4) (sBit : Bool) :
    ∃ t r, multiplyAccumulate c sBit rd rn rs rm s = .next t ∧ s.Multiplied t md rd sBit r ∧
      (rd ≠ rm → r = multiplyResult true rn rs rm s md) := by
  rw [multiplyAccumulate, hs.run, if_neg (by simp [hrd, hrs, hrm, hrn])]
  split
  next heq =>
    obtain ⟨t, ht, done⟩ := multiplyFinish_multiplied s.draw.2 md rd sBit s.draw.1
    exact ⟨t, _, ht, done.of_draw, fun hne => absurd heq hne⟩
  next =>
    obtain ⟨t, ht, done⟩ := multiplyFinish_multiplied s md rd sBit (multiplyResult true rn rs rm s md)
    exact ⟨t, _, multiplyResult_mla .. ▸ ht, done, fun _ => rfl⟩

/-- MUL and MLA in one: what Rd gets is left open for MLA with Rd = Rm alone. -/
theorem exec_multiply {i : Instr} {acc : Bool}
    (hv : viewOf i = if acc then .mla c sBit rd rn rs rm else .mul c sBit rd rs rm) (hs : s.Executes md c)
    (hrd : rd ≠ 15#4) (hrs : rs ≠ 15#4) (hrm : rm ≠ 15#4) (hrn : acc = true → rn ≠ 15#4) :
    ∃ t r, exec i s = .next t ∧ s.Multiplied t md rd sBit r ∧ (rd ≠ rm → r = multiplyResult acc rn rs rm s md) ∧
      (rd = rm → acc = false → r = 0) := by
  rw [exec_eq_meaning, hv]
  cases acc with
  | false =>
    obtain ⟨t, ht, done⟩ := multiply_multiplied hs hrd hrs hrm sBit rn
    exact ⟨t, _, ht, done, fun hne => if_neg hne, fun heq _ => if_pos heq⟩
  | true =>
    obtain ⟨t, r, ht, done, hr⟩ := multiplyAccumulate_multiplied hs hrd hrs hrm (hrn rfl) sBit
    exact ⟨t, r, ht, done, hr, fun _ hmul => nomatch hmul⟩

end

/-! ## The statement -/

/-- Settles O28: the end of a multiply, with the result of the form. -/
theorem multiplyCompletes : Obligations.MultiplyCompletes := by
  intro i c sBit acc rd rn rs rm s md hv hs hrd hrs hrm hrn
  obtain ⟨t, r, ht, multiplied, hne, heq⟩ := exec_multiply hv hs hrd hrs hrm hrn
  obtain ⟨_, done⟩ := multiplied.done
  refine ⟨t, ht, multiplied.regs, fun h => ?_, fun h hmul => ?_, done.rest, multiplied.flags_v, ?_, ?_, done.special,
    done.memory, done.wentOn⟩
  · obtain rfl := hne h
    exact multiplied.result
  · obtain rfl := heq h hmul
    exact multiplied.result
  · rintro rfl
    exact done.flags
  · rintro rfl p hp
    exact multiplied.nz hp

end Sys2Proof.Machine
end

section
/-! SUPPORT. Single transfers that are executed: what each end of a load or a store leaves of the state, and how the end of the
access decides it; the statements O31, O32, O33, O34, O36. -/

namespace Sys2Proof.Machine

/-! ## The base of a transfer (rules R312, R324) -/

/-- `u` is `s` but for the base of a transfer, which holds `b` if the form writes it back, and for the memory system, whose bytes
are those of `m`. -/
structure State.Rebased (s u : State) (md : Mode) (ix : Indexing) (rn : RegNo) (b : Word) (m : MemSys) : Prop where
  regs : ∀ p, (ix.writesBack = true ∧ md.bank rn = some p) ∨ u.preg p = s.preg p
  base : ix.writesBack = true → u.Holds md rn b
  cpsr : u.cpsr = s.cpsr
  special : s.KeepsSpecial u
  memory : ∀ a, u.sys.physByte a = m.physByte a

theorem baseIsData_eq_true_iff {ix : Indexing} {rn rd : RegNo} :
    baseIsData ix rn rd = true ↔ ix.writesBack = true ∧ rn = rd := by
  simp [baseIsData]

theorem State.spsr_writeBack (s : State) (md : Mode) (ix : Indexing) (rn : RegNo) (v : Word) (m : Mode) :
    (writeBack s md ix rn v).spsr m = s.spsr m :=
  State.spsr_eq (by simp) (by simp) (by simp) (by simp) (by simp) m

section
variable {s u : State} {md : Mode} {ix : Indexing} {rn : RegNo} {b : Word} {m : MemSys}

theorem writeBack_rebased (s : State) (md : Mode) (ix : Indexing) (rn : RegNo) (b : Word) (m : MemSys) :
    s.Rebased (writeBack (s.withSys m) md ix rn b) md ix rn b m where
  regs p := by
    rw [State.preg_writeBack, State.preg_withSys]
    exact (em _).imp_right fun hp => if_neg hp
  base hw p hp := by rw [State.preg_writeBack, if_pos ⟨hw, hp⟩]
  cpsr := by simp
  special := ⟨fun md' => by rw [State.spsr_writeBack, State.spsr_withSys], by simp⟩
  memory a := by simp

/-- The base that is also the data of a transfer gets a free value (rule R324). -/
theorem write_draw_rebased (hw : ix.writesBack = true) (s : State) (md : Mode) (rn : RegNo) (b : Word) (m : MemSys) :
    s.Rebased ((s.withSys m).draw.2.write md rn b) md ix rn b m where
  regs p := by
    rw [State.preg_write, State.preg_draw, State.preg_withSys]
    exact (em _).imp (⟨hw, ·⟩) (if_neg ·)
  base _ p hp := by rw [State.preg_write, if_pos hp]
  cpsr := by simp
  special := ⟨fun md' => by simp, by simp⟩
  memory a := by simp

theorem State.Rebased.advance (h : s.Rebased u md ix rn b m) : s.Rebased u.advance md ix rn b m where
  regs p := by simpa using h.regs p
  base hw p hp := by simpa using h.base hw p hp
  cpsr := by simpa using h.cpsr
  special := ⟨fun md' => by simpa using h.special.1 md', by simpa using h.special.2⟩
  memory a := by simpa using h.memory a

end

theorem writeBack_advance_wentOn (s : State) (md : Mode) (ix : Indexing) (rn : RegNo) (b : Word) (m : MemSys) :
    s.WentOn (writeBack (s.withSys m) md ix rn b).advance :=
  ⟨by simp, by simp⟩

theorem write_draw_advance_wentOn (s : State) (md : Mode) (rn : RegNo) (b : Word) (m : MemSys) :
    s.WentOn ((s.withSys m).draw.2.write md rn b).advance :=
  ⟨by simp, by simp⟩

/-! ## The data abort of a transfer (rules R120, R325, R435) -/

/-- An exception is entered from the registers and PSRs of a state, whatever its memory system. -/
theorem State.Entered.of_withSys {s t : State} {m : MemSys} {e : Exception} (h : (s.withSys m).Entered t e) :
    s.Entered t e :=
  { h with spsrs := fun md => by simpa using h.spsrs md }

theorem State.Records.of_cp15 {s u t : State} {f : MemFault} (h : u.Records t f) (hcp : u.cp15 = s.cp15) :
    s.Records t f :=
  { h with
    control := by rw [h.control, hcp]
    ttb := by rw [h.ttb, hcp]
    dac := by rw [h.dac, hcp] }

theorem writeBack_withSys (s : State) (m : MemSys) (md : Mode) (ix : Indexing) (rn : RegNo) (v : Word) :
    writeBack (s.withSys m) md ix rn v = (writeBack s md ix rn v).withSys m := by
  unfold writeBack State.write
  split
  · split <;> rfl
  · rfl

/-- An aborted transfer takes the data abort from the state with the base written back, and what it leaves in memory is what the
access left there. -/
theorem writeBack_dataAbort_spec (s : State) (md : Mode) (ix : Indexing) (rn : RegNo) (v : Word) (m : MemSys)
    (f : MemFault) :
    (writeBack s md ix rn v).Entered ((writeBack (s.withSys m) md ix rn v).dataAbort f) .dataAbort ∧
      s.Records ((writeBack (s.withSys m) md ix rn v).dataAbort f) f ∧
      ∀ a, ((writeBack (s.withSys m) md ix rn v).dataAbort f).sys.physByte a = m.physByte a := by
  rw [writeBack_withSys]
  obtain ⟨entered, records, keeps⟩ := ((writeBack s md ix rn v).withSys m).dataAbort_spec f
  exact ⟨entered.of_withSys, records.of_cp15 (by simp), keeps⟩

/-! ## Reading through to the end of the instruction -/

section
variable {i : Instr} {sz : Size} {c : Cond} {ix : Indexing} {up : Bool} {rn rd : RegNo} {off : Offset} {s : State}
  {md : Mode} {f : MemFault} {v : Word} {m : MemSys}

theorem exec_load_ok (hv : viewOf i = .load sz c ix up rn rd off) (hs : s.Executes md c)
    (hr : transferRestriction ix rn off = none)
    (h : memRead s.cp15 sz (transferAddress s md ix up rn off) (ix.privilege md) s.sys = .ok v m) :
    exec i s =
      if baseIsData ix rn rd then .next ((s.withSys m).draw.2.write md rd (s.withSys m).draw.1).advance
      else deliverLoad (writeBack (s.withSys m) md ix rn (modifiedBase s md up rn off)) md rd v := by
  rw [exec_eq_meaning, hv, View.meaning, loadRegister, hs.run]
  simp only [hr, h]

theorem exec_load_abort (hv : viewOf i = .load sz c ix up rn rd off) (hs : s.Executes md c)
    (hr : transferRestriction ix rn off = none)
    (h : memRead s.cp15 sz (transferAddress s md ix up rn off) (ix.privilege md) s.sys = .abort f m) :
    exec i s = .next ((writeBack (s.withSys m) md ix rn (modifiedBase s md up rn off)).dataAbort f) := by
  rw [exec_eq_meaning, hv, View.meaning, loadRegister, hs.run]
  simp only [hr, h]

theorem exec_store_ok (hv : viewOf i = .store sz c ix up rn rd off) (hs : s.Executes md c)
    (hr : transferRestriction ix rn off = none) (hb : baseIsData ix rn rd = false)
    (h : memWrite s.cp15 .single sz (transferAddress s md ix up rn off) (ix.privilege md) (storedValue s md rd) s.sys =
      .ok () m) :
    exec i s = .next (writeBack (s.withSys m) md ix rn (modifiedBase s md up rn off)).advance := by
  rw [exec_eq_meaning, hv, View.meaning, storeRegister, hs.run]
  simp only [hr, hb, h, Bool.false_eq_true, if_false]

theorem exec_store_abort (hv : viewOf i = .store sz c ix up rn rd off) (hs : s.Executes md c)
    (hr : transferRestriction ix rn off = none) (hb : baseIsData ix rn rd = false)
    (h : memWrite s.cp15 .single sz (transferAddress s md ix up rn off) (ix.privilege md) (storedValue s md rd) s.sys =
      .abort f m) :
    exec i s = .next ((writeBack (s.withSys m) md ix rn (modifiedBase s md up rn off)).dataAbort f) := by
  rw [exec_eq_meaning, hv, View.meaning, storeRegister, hs.run]
  simp only [hr, hb, h, Bool.false_eq_true, if_false]

/-- With write-back to Rd = Rn a free value is stored, and another becomes the base (rule R324, log entry 32). -/
theorem exec_store_baseIsData (hv : viewOf i = .store sz c ix up rn rd off) (hs : s.Executes md c)
    (hr : transferRestriction ix rn off = none) (hb : baseIsData ix rn rd = true)
    (h : memWrite s.cp15 .single sz (transferAddress s md ix up rn off) (ix.privilege md) s.draw.1 s.draw.2.sys =
      .ok () m) :
    exec i s = .next ((s.withSys m).draw.2.write md rn (s.withSys m).draw.1).advance := by
  rw [exec_eq_meaning, hv, View.meaning, storeRegister, hs.run]
  simp only [hr, hb, h, if_true]

end

/-! ## Loads (rules R313 to R315, R318, R319, R322, R325) -/

/-- The loaded value goes to Rd, or for R15 to the pc, and nothing else changes. -/
theorem deliverLoad_spec (u : State) (md : Mode) (rd : RegNo) (v : Word) :
    ∃ t, deliverLoad u md rd v = .next t ∧ u.KeepsRegsBut t md rd ∧
      (if rd = 15#4 then t.pc = v &&& 0xFFFFFFFC#32 else t.Holds md rd v) ∧ (rd ≠ 15#4 → u.WentOn t) ∧
      t.cpsr = u.cpsr ∧ u.KeepsSpecial t ∧ u.KeepsMemory t := by
  by_cases hrd : rd = 15#4
  · have done := u.jump_done_alignWord v
    exact ⟨u.jump v, if_pos hrd, fun p => .inr (u.preg_jump v p), by rw [if_pos hrd]; exact done.pc, (absurd hrd ·),
      done.cpsr, done.special, done.memory⟩
  · obtain ⟨keeps, holds, cpsr, special, memory, wentOn⟩ := u.write_advance_keeps md rd v
    exact ⟨_, if_neg hrd, keeps, by rwa [if_neg hrd], fun _ => wentOn, cpsr, special, memory⟩

/-- Settles O32: the base is written back and the value delivered; or, if Rd is that base, the register gets a free value. -/
theorem loadDelivers : Obligations.LoadDelivers := by
  intro i sz c ix up rn rd off s md v m hv hs hr h
  have hmem : ∀ a, m.physByte a = s.sys.physByte a :=
    ((memRead_onlyReads s.cp15 sz (transferAddress s md ix up rn off) (ix.privilege md) s.sys).ok h).phys
  rw [exec_load_ok hv hs hr h]
  cases hb : baseIsData ix rn rd with
  | true =>
    obtain ⟨hw, rfl⟩ := baseIsData_eq_true_iff.1 hb
    have done := (write_draw_rebased hw s md rn (s.withSys m).draw.1 m).advance
    exact ⟨_, if_pos rfl, fun p => .inr (done.regs p), fun _ hne => absurd rfl hne, fun hne => absurd rfl (hne hw),
      fun _ => write_draw_advance_wentOn s md rn _ m, done.cpsr, done.special, fun a => (done.memory a).trans (hmem a)⟩
  | false =>
    have done := writeBack_rebased s md ix rn (modifiedBase s md up rn off) m
    obtain ⟨t, ht, keeps, value, wentOn, cpsr, ⟨spsr, cp15⟩, memory⟩ :=
      deliverLoad_spec (writeBack (s.withSys m) md ix rn (modifiedBase s md up rn off)) md rd v
    refine ⟨t, (if_neg Bool.false_ne_true).trans ht, fun p => ?regs, fun hw hne p hp => ?base, fun _ => value,
      fun hrd => by simpa [State.WentOn] using wentOn hrd, cpsr.trans done.cpsr,
      ⟨fun md' => (spsr md').trans (done.special.1 md'), cp15.trans done.special.2⟩,
      fun a => ((memory a).trans (done.memory a)).trans (hmem a)⟩
    case regs => exact (keeps p).imp_right fun hp => (done.regs p).imp_right hp.trans
    case base =>
      have hkept := (keeps p).resolve_left fun hd => hne (Mode.bank_inj hd hp)
      exact hkept.trans (done.base hw p hp)

/-- Settles O31: the access of a flat and plain location answers the word that stands there. -/
theorem loadCompletes : Obligations.LoadCompletes := by
  intro i sz c ix up rn rd off s md hv hs hr ⟨hmmu, hcached, habort, hvolatile⟩ hmis
  exact loadDelivers i sz c ix up rn rd off s md _ _ hv hs hr (memRead_flat hmmu hcached habort hvolatile hmis)

/-- Settles O33: the load has only read, and the data abort follows the write-back. -/
theorem loadAborts : Obligations.LoadAborts := by
  intro i sz c ix up rn rd off s md f m hv hs hr h
  have hmem := ((memRead_onlyReads s.cp15 sz (transferAddress s md ix up rn off) (ix.privilege md) s.sys).abort h).phys
  obtain ⟨entered, records, memory⟩ := writeBack_dataAbort_spec s md ix rn (modifiedBase s md up rn off) m f
  exact ⟨_, exec_load_abort hv hs hr h, entered, records, fun a => (memory a).trans (hmem a)⟩

/-! ## Stores (rules R316, R317, R320 to R322, R325) -/

theorem storedValue_eq (s : State) (md : Mode) (rd : RegNo) :
    storedValue s md rd = if rd = 15#4 then s.pc + 12#32 else s.read md rd 12#32 := by
  split
  next h => exact h ▸ rfl
  next => rfl

/-- Which bytes a store changes does not depend on the value stored. -/
theorem storedByte_eq_none {sz : Size} {be : Bool} {pa v : Word} {a : Nat} (h : storedByte sz be pa v a = none) (v' : Word) :
    storedByte sz be pa v' a = none := by
  cases sz <;> simpa [storedByte] using h

/-- A store that ends well has stored its bytes at the translated address, if no ABORT comes there (rules R92, R93, R152). -/
theorem memWrite_stores {cp : Cp15} {style : WriteStyle} {sz : Size} {va v : Word} {priv : Bool} {m m' m1 : MemSys}
    {tr : Translation} (h : memWrite cp style sz va priv v m = .ok () m')
    (htr : translate cp va true priv m = .ok tr m1) (ha : m.asserts .write tr.pa = false) (a : Nat) :
    m'.physByte a = (storedByte sz cp.bigEndian tr.pa v a).getD (m.physByte a) := by
  obtain ⟨-, tr', m1', htr', hwrote | ⟨-, hasserts, -⟩⟩ := memWrite_ok h
  all_goals
    rw [htr] at htr'
    cases htr'
  · exact hwrote.stored (translate_low htr) a
  · rw [ha] at hasserts
    cases hasserts

/-- Settles O34: the access makes its write, and the base is written back; if Rd is that base, both get a free value. -/
theorem storeCompletes : Obligations.StoreCompletes := by
  intro i sz c ix up rn rd off s md hv hs hr
  refine ⟨fun hmmu habort hmis => ?flat, fun m hb h => ?any⟩
  case flat =>
    cases hb : baseIsData ix rn rd with
    | true =>
      obtain ⟨hw, rfl⟩ := baseIsData_eq_true_iff.1 hb
      obtain ⟨m, h, hmem, -⟩ := memWrite_flat (st := .single) (m := s.draw.2.sys) s.draw.1 (ix.privilege md) hmmu habort hmis
      have done := (write_draw_rebased hw s md rn (s.withSys m).draw.1 m).advance
      refine ⟨_, exec_store_baseIsData hv hs hr hb h, done.regs, fun _ hne => absurd rfl hne,
        fun hne => absurd rfl (hne hw), fun v a hnone => ?_, done.cpsr, done.special,
        write_draw_advance_wentOn s md rn _ m⟩
      rw [done.memory, hmem, storedByte_eq_none hnone, Option.getD_none, State.draw_state_sys, MemSys.draw_physByte]
    | false =>
      obtain ⟨m, h, hmem, -⟩ :=
        memWrite_flat (st := .single) (m := s.sys) (storedValue s md rd) (ix.privilege md) hmmu habort hmis
      have done := (writeBack_rebased s md ix rn (modifiedBase s md up rn off) m).advance
      refine ⟨_, exec_store_ok hv hs hr hb h, done.regs, fun hw _ => done.base hw, fun _ a => ?_, fun v a hnone => ?_,
        done.cpsr, done.special, writeBack_advance_wentOn s md ix rn _ m⟩
      · rw [done.memory, hmem, storedValue_eq]
      · rw [done.memory, hmem, storedByte_eq_none hnone, Option.getD_none]
  case any =>
    have done := (writeBack_rebased s md ix rn (modifiedBase s md up rn off) m).advance
    refine ⟨_, exec_store_ok hv hs hr hb h, done.regs, done.base, fun tr m1 htr habort a => ?_, done.cpsr, done.special,
      writeBack_advance_wentOn s md ix rn _ m⟩
    rw [done.memory, memWrite_stores h htr habort, storedValue_eq]

/-- Settles O36: without a translation the access has only read, and the data abort follows the write-back. -/
theorem storeAborts : Obligations.StoreAborts := by
  intro i sz c ix up rn rd off s md f m hv hs hr hb h
  obtain ⟨entered, records, memory⟩ := writeBack_dataAbort_spec s md ix rn (modifiedBase s md up rn off) m f
  refine ⟨_, exec_store_abort hv hs hr hb h, entered, records, fun hnone a => ?_⟩
  rcases (memWrite_stored s.cp15 .single sz (transferAddress s md ix up rn off) (ix.privilege md) (storedValue s md rd)
    s.sys).abort h with hreads | ⟨tr, m1, htr, -⟩
  · exact (memory a).trans (hreads.phys a)
  · exact absurd htr (hnone tr m1)

end Sys2Proof.Machine
end

section
/-! SUPPORT. The operand restrictions of block transfers and coprocessor 15: the statement O54. -/

namespace Sys2Proof.Machine

section
variable {i : Instr} {s : State} {md : Mode} {c : Cond} {pre up w : Bool} {rn rd : RegNo} {list : BitVec 16} {r : Refusal}

/-! ## Block transfers (rules R349 to R353) -/

theorem blockRestriction_base (h : rn = 15#4) (list : BitVec 16) : blockRestriction rn list = some .blockBaseR15 := by
  rw [blockRestriction, if_pos (beq_iff_eq.2 h)]

theorem blockRestriction_empty (hrn : rn ≠ 15#4) (hl : list = 0#16) :
    blockRestriction rn list = some .emptyRegisterList := by
  simp [blockRestriction, hrn, hl]

/-- A block transfer of any form with a restricted base or list is refused (rule R353). -/
theorem exec_block_restricted (hs : s.Executes md c)
    (hv : viewOf i = .ldm c pre up w rn list ∨ viewOf i = .ldmRestore c pre up w rn list ∨
      viewOf i = .ldmUser c pre up w rn list ∨ viewOf i = .stm c pre up w rn list ∨ viewOf i = .stmUser c pre up w rn list)
    (h : blockRestriction rn list = some r) : exec i s = .refused r := by
  rcases hv with hv | hv | hv | hv | hv <;> rw [exec_eq_meaning, hv, View.meaning]
  · rw [loadBlock, hs.run, h]
  · rw [loadBlockRestore, hs.run, h]
  · rw [loadBlockUser, hs.run, h]
  · rw [storeBlock, hs.run, h]
  · rw [storeBlockUser, hs.run, h]

/-- The S bit is refused in User mode (rule R349). -/
theorem exec_block_sBit_usr (hs : s.Executes .usr c)
    (hv : viewOf i = .ldmRestore c pre up w rn list ∨ viewOf i = .ldmUser c pre up w rn list ∨
      viewOf i = .stmUser c pre up w rn list)
    (h : blockRestriction rn list = none) : exec i s = .refused .blockSBitInUserMode := by
  rcases hv with hv | hv | hv <;> rw [exec_eq_meaning, hv, View.meaning]
  · rw [loadBlockRestore, hs.run, h]
    rfl
  · rw [loadBlockUser, hs.run, h]
    rfl
  · rw [storeBlockUser, hs.run, h]
    rfl

/-- The User bank is transferred without write-back (rules R350, R351). -/
theorem exec_userBank_writeBack (hs : s.Executes md c) (hmd : md ≠ .usr)
    (hv : viewOf i = .ldmUser c pre up true rn list ∨ viewOf i = .stmUser c pre up true rn list)
    (h : blockRestriction rn list = none) : exec i s = .refused .userBankWriteBack := by
  rcases hv with hv | hv <;> rw [exec_eq_meaning, hv, View.meaning]
  · rw [loadBlockUser, hs.run, h, Mode.privileged_of_ne hmd]
    rfl
  · rw [storeBlockUser, hs.run, h, Mode.privileged_of_ne hmd]
    rfl

/-! ## Coprocessor 15 (rules R177, R402, R403, R406, R411) -/

theorem exec_cp15Read_fields {src : Cp15Source} (hs : s.Executes md c) (hmd : md ≠ .usr)
    (hv : viewOf i = .cp15Read c false rd src) : exec i s = .refused .cp15ReservedFields := by
  rw [exec_eq_meaning, hv, View.meaning, hs.run, Mode.privileged_of_ne hmd]
  rfl

theorem exec_cp15Write_fields {tgt : Cp15Target} (hs : s.Executes md c) (hmd : md ≠ .usr)
    (hv : viewOf i = .cp15Write c false rd tgt) : exec i s = .refused .cp15ReservedFields := by
  rw [exec_eq_meaning, hv, View.meaning, hs.run, Mode.privileged_of_ne hmd]
  rfl

/-- With its unnamed fields zero, an MCR in a privileged mode writes Rd to its register (rule R400). -/
theorem exec_cp15Write {tgt : Cp15Target} (hs : s.Executes md c) (hmd : md ≠ .usr)
    (hv : viewOf i = .cp15Write c true rd tgt) : exec i s = tgt.write (s.read md rd 12#32) s := by
  rw [exec_eq_meaning, hv, View.meaning, hs.run, Mode.privileged_of_ne hmd]
  rfl

theorem writeControl_reserved {v : Word} (h : v.extractLsb' 11 21 ≠ 0#21) (s : State) :
    writeControl v s = .refused .cp15ReservedData :=
  if_pos h

theorem writeTtb_reserved {v : Word} (h : v.extractLsb' 0 14 ≠ 0#14) (s : State) :
    writeTtb v s = .refused .cp15ReservedData :=
  if_pos h

theorem purgeTlb_reserved {v : Word} (h : v.extractLsb' 0 12 ≠ 0#12) (s : State) :
    purgeTlb v s = .refused .cp15ReservedData :=
  if_pos h

/-- Cache and write buffer are not enabled without the MMU (rules R177, R402). -/
theorem writeControl_withoutMmu {v : Word} (h : v.extractLsb' 11 21 = 0#21)
    (hon : (v.getLsbD 2 || v.getLsbD 3) = true) (hmmu : v.getLsbD 0 = false) (s : State) :
    writeControl v s = .refused .enableWithoutMmu := by
  rw [writeControl, if_neg (not_not.2 h), hon, hmmu]
  rfl

end

/-! ## The statement -/

/-- Settles O54: each restriction is a test of its family's meaning, before any transfer is made. -/
theorem blockAndCp15RestrictionsRefused : Obligations.BlockAndCp15RestrictionsRefused := by
  intro i s md c hs
  refine ⟨?block, ?sBit, ?userBank, ?readFields, ?writeFields, ?data, ?withoutMmu⟩
  case block =>
    exact fun pre up w rn list hv =>
      ⟨fun hrn => exec_block_restricted hs hv (blockRestriction_base hrn list),
        fun hrn hl => exec_block_restricted hs hv (blockRestriction_empty hrn hl)⟩
  case sBit =>
    intro pre up w rn list hv hrn hl hmd
    subst hmd
    exact exec_block_sBit_usr hs hv (blockRestriction_none hrn hl)
  case userBank =>
    intro pre up w rn list hv hrn hl hmd hw
    subst hw
    exact exec_userBank_writeBack hs hmd hv (blockRestriction_none hrn hl)
  case readFields => exact fun rd src hv hmd => exec_cp15Read_fields hs hmd hv
  case writeFields => exact fun rd tgt hv hmd => exec_cp15Write_fields hs hmd hv
  case data =>
    intro rd tgt hv hmd h
    rw [exec_cp15Write hs hmd hv]
    rcases h with ⟨rfl, h⟩ | ⟨rfl, h⟩ | ⟨rfl, h⟩
    · exact writeControl_reserved h s
    · exact writeTtb_reserved h s
    · exact purgeTlb_reserved h s
  case withoutMmu =>
    intro rd hv hmd h hon hmmu
    rw [exec_cp15Write hs hmd hv]
    exact writeControl_withoutMmu h hon hmmu s

end Sys2Proof.Machine
end

section
/-! SUPPORT. Block loads that are executed: what a list of register writes leaves, and how the reads decide the end of an LDM; the
statements O39, O40, O41, O43. -/

namespace Sys2Proof.Machine

/-! ## The words of a register list (rules R343, R344) -/

section
variable {rs : List RegNo} {ws : List Word} {r : RegNo} {v : Word}

theorem mem_zip_of_lookup (h : (rs.zip ws).lookup r = some v) : (r, v) ∈ rs.zip ws := by
  obtain ⟨l₁, l₂, hl, -⟩ := List.lookup_eq_some_iff.1 h
  rw [hl]
  exact List.mem_append_right _ (.head _)

theorem isSome_lookup_of_mem_zip (h : (r, v) ∈ rs.zip ws) : ((rs.zip ws).lookup r).isSome = true := by
  rw [List.lookup_isSome_iff]
  exact ⟨(r, v), h, beq_self_eq_true r⟩

theorem mem_of_isSome_lookup (h : ((rs.zip ws).lookup r).isSome = true) : r ∈ rs := by
  obtain ⟨v, hv⟩ := Option.isSome_iff_exists.1 h
  exact (List.of_mem_zip (mem_zip_of_lookup hv)).1

/-- In a list that gives each register the word of a function, that is the word found. -/
theorem lookup_zip_map (f : RegNo → Word) (h : r ∈ rs) : (rs.zip (rs.map f)).lookup r = some (f r) := by
  induction rs with
  | nil => cases h
  | cons x xs ih =>
    rw [List.map_cons, List.zip_cons_cons, List.lookup_cons]
    cases hx : r == x with
    | true => rw [beq_iff_eq.1 hx]
    | false => exact ih ((List.mem_cons.1 h).resolve_left (beq_eq_false_iff_ne.1 hx))

/-- The word of R15, if there is one for each register of the list, is the last (rule R345). -/
theorem getLastD_of_lookup_r15 {list : BitVec 16} (hlen : ws.length = (listRegisters list).length)
    (h : ((listRegisters list).zip ws).lookup 15#4 = some v) : ws.getLastD 0 = v := by
  obtain ⟨k, hk⟩ := List.mem_iff_getElem?.1 (mem_zip_of_lookup h)
  obtain ⟨hr, hv⟩ : (listRegisters list)[k]? = some 15#4 ∧ ws[k]? = some v := List.getElem?_zip_eq_some.1 hk
  obtain ⟨hlt, -⟩ := List.getElem?_eq_some_iff.1 hr
  have hlast : (listRegisters list).length = k + 1 := by
    by_contra hne
    have hnext : k + 1 < (listRegisters list).length := by omega
    have hsorted := List.pairwise_iff_getElem.1 (listRegisters_sorted list) k (k + 1) hlt hnext (Nat.lt_succ_self k)
    rw [(List.getElem_eq_iff hlt).2 hr] at hsorted
    have := ((listRegisters list)[k + 1]).isLt
    have h15 : (15#4 : RegNo).toNat = 15 := rfl
    omega
  rw [List.getLastD_eq_getLast?, List.getLast?_eq_getElem?, hlen, hlast, Nat.add_sub_cancel, hv, Option.getD_some]

/-- A register that gets no word is as before. -/
theorem preg_writeRegisters_of_ne (s : State) (md : Mode) {p : PReg} (h : ∀ x ∈ rs.zip ws, md.bank x.1 ≠ some p) :
    (writeRegisters s md rs ws).preg p = s.preg p := by
  induction rs generalizing s ws with
  | nil => rfl
  | cons x xs ih =>
    cases ws with
    | nil => rfl
    | cons w ws =>
      rw [writeRegisters, ih _ fun y hy => h y (.tail _ hy), State.preg_write, if_neg (h (x, w) (.head _))]

/-- A register that gets a word holds it. -/
theorem writeRegisters_holds (hn : rs.Nodup) (s : State) (md : Mode) (h : (r, v) ∈ rs.zip ws) :
    (writeRegisters s md rs ws).Holds md r v := by
  intro p hp
  induction rs generalizing s ws with
  | nil => cases h
  | cons x xs ih =>
    obtain ⟨hx, hxs⟩ := List.nodup_cons.1 hn
    cases ws with
    | nil => cases h
    | cons w ws =>
      rw [List.zip_cons_cons, List.mem_cons] at h
      rw [writeRegisters]
      rcases h with hhead | htail
      · obtain ⟨rfl, rfl⟩ := Prod.mk.inj hhead
        have hrest : ∀ y ∈ xs.zip ws, md.bank y.1 ≠ some p := fun y hy hyp =>
          hx (Mode.bank_inj hp hyp ▸ (List.of_mem_zip hy).1)
        rw [preg_writeRegisters_of_ne _ md hrest, State.preg_write, if_pos hp]
      · exact ih hxs _ htail

end

section
variable {i : Instr} {c : Cond} {pre up w : Bool} {rn : RegNo} {list : BitVec 16} {s u t : State} {md dest : Mode}
  {ws : List Word} {f : MemFault} {m : MemSys}

/-! ## The registers of an LDM (rules R344, R350, R352) -/

/-- `u` is `s` with the words `ws` in the registers of the list, of bank `dest`, and the base written back if W = 1, whatever has
become of the pc and the CPSR. -/
structure State.Loaded (s u : State) (md dest : Mode) (up w : Bool) (rn : RegNo) (list : BitVec 16) (ws : List Word) :
    Prop where
  words : ∀ r v, ((listRegisters list).zip ws).lookup r = some v → u.Holds dest r v
  base : dest = md → w = true → ¬ listed list rn → u.Holds md rn (blockFinal up (s.read md rn 8#32) list)
  regs : ∀ p, (∃ r, listed list r ∧ dest.bank r = some p) ∨ (w = true ∧ md.bank rn = some p) ∨ u.preg p = s.preg p
  special : s.KeepsSpecial u
  memory : s.KeepsMemory u

theorem State.spsr_writeRegisters (s : State) (md : Mode) (rs : List RegNo) (ws : List Word) (md' : Mode) :
    (writeRegisters s md rs ws).spsr md' = s.spsr md' :=
  State.spsr_eq (by simp) (by simp) (by simp) (by simp) (by simp) md'

theorem State.spsr_blockWriteBack (s0 s : State) (md : Mode) (up w : Bool) (rn : RegNo) (list : BitVec 16) (md' : Mode) :
    (blockWriteBack s0 s md up w rn list).spsr md' = s.spsr md' :=
  State.spsr_eq (by simp) (by simp) (by simp) (by simp) (by simp) md'

theorem mem_listRegisters_of_zip {x : RegNo × Word} (h : x ∈ (listRegisters list).zip ws) : listed list x.1 :=
  (mem_listRegisters list x.1).1 (List.of_mem_zip h).1

theorem writeRegisters_loaded (s : State) (md dest : Mode) (up w : Bool) (rn : RegNo) (list : BitVec 16) (ws : List Word)
    (hm : ∀ a, m.physByte a = s.sys.physByte a) :
    s.Loaded (writeRegisters (blockWriteBack s (s.withSys m) md up w rn list) dest (listRegisters list) ws) md dest up w rn
      list ws where
  words r v h := writeRegisters_holds (listRegisters_nodup list) _ dest (mem_zip_of_lookup h)
  base hd hw hrn p hp := by
    subst hd
    have hne : ∀ x ∈ (listRegisters list).zip ws, dest.bank x.1 ≠ some p := fun x hx hxp =>
      hrn (Mode.bank_inj hp hxp ▸ mem_listRegisters_of_zip hx)
    rw [preg_writeRegisters_of_ne _ dest hne, preg_blockWriteBack, if_pos ⟨hw, hp⟩]
  regs p := by
    by_cases hlist : ∃ r, listed list r ∧ dest.bank r = some p
    · exact .inl hlist
    · have hne : ∀ x ∈ (listRegisters list).zip ws, dest.bank x.1 ≠ some p := fun x hx hxp =>
        hlist ⟨x.1, mem_listRegisters_of_zip hx, hxp⟩
      rw [preg_writeRegisters_of_ne _ dest hne, preg_blockWriteBack]
      exact .inr ((em _).imp_right fun hp => if_neg hp)
  special := ⟨fun md' => by simp [State.spsr_writeRegisters, State.spsr_blockWriteBack], by simp⟩
  memory a := by simpa using hm a

theorem State.Loaded.trans (h : s.Loaded u md dest up w rn list ws) (hregs : u.KeepsRegs t) (hspecial : u.KeepsSpecial t)
    (hmem : u.KeepsMemory t) : s.Loaded t md dest up w rn list ws where
  words r v hv p hp := (hregs p).trans (h.words r v hv p hp)
  base hd hw hrn p hp := (hregs p).trans (h.base hd hw hrn p hp)
  regs p := (h.regs p).imp_right (Or.imp_right (hregs p).trans)
  special := ⟨fun md' => (hspecial.1 md').trans (h.special.1 md'), hspecial.2.trans h.special.2⟩
  memory a := (hmem a).trans (h.memory a)

/-! ## Reading through to the end of the instruction -/

theorem exec_ldm_done (hv : viewOf i = .ldm c pre up w rn list) (hs : s.Executes md c) (hrn : rn ≠ 15#4)
    (hl : list ≠ 0#16)
    (h : readBlock s.cp15 md.privileged (listAddresses s md pre up rn list) s.sys = .done ws m) :
    exec i s = .next (loadFinish list ws
      (writeRegisters (blockWriteBack s (s.withSys m) md up w rn list) md (listRegisters list) ws)) := by
  rw [exec_eq_meaning, hv, View.meaning, loadBlock, hs.run]
  simp only [blockRestriction_none hrn hl, h]

theorem exec_ldmRestore_done {p : Word} (hv : viewOf i = .ldmRestore c pre up w rn list) (hs : s.Executes md c)
    (hp : s.spsr md = some p) (hrn : rn ≠ 15#4) (hl : list ≠ 0#16)
    (h : readBlock s.cp15 md.privileged (listAddresses s md pre up rn list) s.sys = .done ws m) :
    exec i s = .next ((writeRegisters (blockWriteBack s (s.withSys m) md up w rn list) md (listRegisters list)
      ws).returnFrom p (ws.getLastD 0)) := by
  rw [exec_eq_meaning, hv, View.meaning, loadBlockRestore, hs.run]
  simp only [blockRestriction_none hrn hl, hp, h]

/-- The User-bank form has no write-back (rule R350). -/
theorem exec_ldmUser_done (hv : viewOf i = .ldmUser c pre up false rn list) (hs : s.Executes md c) (hmd : md ≠ .usr)
    (hrn : rn ≠ 15#4) (hl : list ≠ 0#16)
    (h : readBlock s.cp15 md.privileged (listAddresses s md pre up rn list) s.sys = .done ws m) :
    exec i s = .next (writeRegisters (blockWriteBack s (s.withSys m) md up false rn list) .usr (listRegisters list)
      ws).advance.raiseHazard := by
  rw [exec_eq_meaning, hv, View.meaning, loadBlockUser, hs.run]
  rw [Mode.privileged_of_ne hmd] at h
  simp only [blockRestriction_none hrn hl, Mode.privileged_of_ne hmd, Bool.not_true, Bool.false_eq_true, if_false, h,
    blockWriteBack]

theorem exec_ldm_aborted
    (hv : (viewOf i = .ldm c pre up w rn list ∧ dest = md) ∨
      (viewOf i = .ldmRestore c pre up w rn list ∧ md ≠ .usr ∧ dest = md) ∨
      (viewOf i = .ldmUser c pre up w rn list ∧ md ≠ .usr ∧ w = false ∧ dest = .usr))
    (hs : s.Executes md c) (hrn : rn ≠ 15#4) (hl : list ≠ 0#16)
    (h : readBlock s.cp15 md.privileged (listAddresses s md pre up rn list) s.sys = .aborted ws f m) :
    exec i s = .next (abortedLoad s md dest up w rn list ws f m) := by
  have hr := blockRestriction_none hrn hl
  rcases hv with ⟨hv, rfl⟩ | ⟨hv, hmd, rfl⟩ | ⟨hv, hmd, rfl, rfl⟩
  · rw [exec_eq_meaning, hv, View.meaning, loadBlock, hs.run]
    simp only [hr, h]
  · obtain ⟨p, hp⟩ := s.spsr_isSome hmd
    rw [exec_eq_meaning, hv, View.meaning, loadBlockRestore, hs.run]
    simp only [hr, hp, h]
  · rw [exec_eq_meaning, hv, View.meaning, loadBlockUser, hs.run]
    rw [Mode.privileged_of_ne hmd] at h
    simp only [hr, Mode.privileged_of_ne hmd, Bool.not_true, Bool.false_eq_true, if_false, h]

/-- From flat and plain memory the reads of an LDM answer the words that stand there, register by register (rule R343). -/
theorem readBlock_flat_list (priv : Bool) (hl : list ≠ 0#16)
    (h : ∀ r, listed list r → s.FlatAt .read (blockAddress s md pre up rn list r) ∧
      misaligned s.cp15 .word (blockAddress s md pre up rn list r) = false) :
    ∃ m, readBlock s.cp15 priv (listAddresses s md pre up rn list) s.sys =
      .done ((listRegisters list).map (blockWord s md pre up rn list)) m := by
  obtain ⟨r, hr⟩ := exists_listed hl
  have hplain : ∀ a ∈ listAddresses s md pre up rn list, s.sys.cachedWord a = none ∧ s.sys.asserts .read a = false ∧
      s.sys.isVolatile a = false ∧ misaligned s.cp15 .word a = false := by
    intro a ha
    rw [listAddresses_eq] at ha
    obtain ⟨q, hq, rfl⟩ := List.mem_map.1 ha
    obtain ⟨⟨-, hcached, habort, hvolatile⟩, hmis⟩ := h q ((mem_listRegisters list q).1 hq)
    exact ⟨hcached, habort, hvolatile, hmis⟩
  obtain ⟨m, hread, -⟩ := readBlock_flat (priv := priv) (h r hr).1.1 _ s.sys hplain
  refine ⟨m, hread.trans ?_⟩
  rw [listAddresses_eq, List.map_map]
  rfl

/-- The word that stands in memory for a listed register is the one the list of words gives it. -/
theorem lookup_blockWord {r : RegNo} (h : listed list r) :
    ((listRegisters list).zip ((listRegisters list).map (blockWord s md pre up rn list))).lookup r =
      some (blockWord s md pre up rn list r) :=
  lookup_zip_map _ ((mem_listRegisters list r).2 h)

theorem length_of_readBlock_done {cp : Cp15} {priv : Bool} {m' : MemSys}
    (h : readBlock cp priv (listAddresses s md pre up rn list) m = .done ws m') :
    ws.length = (listRegisters list).length := by
  have hread := readBlock_reads cp priv (listAddresses s md pre up rn list) m
  rw [h] at hread
  rw [hread.2, listAddresses_eq, List.length_map]

/-- Each word of the list is in its register, that of R15 in the pc. -/
theorem State.Loaded.words_and_pc (h : s.Loaded t md dest up w rn list ws)
    (hpc : ∀ v, ((listRegisters list).zip ws).lookup 15#4 = some v → t.pc = alignWord v) (r : RegNo) (v : Word)
    (hr : ((listRegisters list).zip ws).lookup r = some v) :
    if r = 15#4 then t.pc = alignWord v else t.Holds dest r v := by
  split
  next h15 => exact hpc v (h15 ▸ hr)
  next => exact h.words r v hr

/-! ## The ends of an LDM whose reads all answer (rules R344 to R346, R350) -/

/-- The end of an LDM without the S bit: a branch to the word of R15, or on to the next instruction (rules R344, R345). -/
theorem loadFinish_spec (u : State) (hlen : ws.length = (listRegisters list).length) :
    u.KeepsRegs (loadFinish list ws u) ∧
      (∀ v, ((listRegisters list).zip ws).lookup 15#4 = some v → (loadFinish list ws u).pc = alignWord v) ∧
      (¬ listed list 15#4 → u.WentOn (loadFinish list ws u)) ∧ (loadFinish list ws u).cpsr = u.cpsr ∧
      u.KeepsSpecial (loadFinish list ws u) ∧ u.KeepsMemory (loadFinish list ws u) := by
  by_cases h15 : listed list 15#4
  · have hend : loadFinish list ws u = u.jump (ws.getLastD 0) := if_pos h15
    have done := u.jump_done_alignWord (ws.getLastD 0)
    rw [hend]
    refine ⟨fun p => u.preg_jump _ p, fun v hv => ?_, (absurd h15 ·), done.cpsr, done.special, done.memory⟩
    rw [done.pc, getLastD_of_lookup_r15 hlen hv]
  · have hend : loadFinish list ws u = u.advance := if_neg h15
    obtain ⟨regs, cpsr, special, memory, wentOn⟩ := u.advance_keeps
    rw [hend]
    refine ⟨regs, fun v hv => ?_, fun _ => wentOn, cpsr, special, memory⟩
    exact absurd (mem_listRegisters_of_zip (mem_zip_of_lookup hv)) h15

theorem exec_ldm_loaded (hv : viewOf i = .ldm c pre up w rn list) (hs : s.Executes md c) (hrn : rn ≠ 15#4)
    (hl : list ≠ 0#16)
    (h : readBlock s.cp15 md.privileged (listAddresses s md pre up rn list) s.sys = .done ws m) :
    ∃ t, exec i s = .next t ∧ s.Loaded t md md up w rn list ws ∧
      (∀ v, ((listRegisters list).zip ws).lookup 15#4 = some v → t.pc = alignWord v) ∧
      (¬ listed list 15#4 → s.WentOn t) ∧ t.cpsr = s.cpsr := by
  have loaded := writeRegisters_loaded s md md up w rn list ws (readBlock_done_reads h).phys
  obtain ⟨regs, pc, wentOn, cpsr, special, memory⟩ :=
    loadFinish_spec (writeRegisters (blockWriteBack s (s.withSys m) md up w rn list) md (listRegisters list) ws)
      (length_of_readBlock_done h)
  exact ⟨_, exec_ldm_done hv hs hrn hl h, loaded.trans regs special memory, pc,
    fun h15 => by simpa [State.WentOn] using wentOn h15, cpsr.trans (by simp)⟩

theorem exec_ldmRestore_loaded (hv : viewOf i = .ldmRestore c pre up w rn list) (hs : s.Executes md c) (hmd : md ≠ .usr)
    (hrn : rn ≠ 15#4) (hl : list ≠ 0#16)
    (h : readBlock s.cp15 md.privileged (listAddresses s md pre up rn list) s.sys = .done ws m) :
    ∃ t, exec i s = .next t ∧ s.Loaded t md md up w rn list ws ∧
      (∀ v, ((listRegisters list).zip ws).lookup 15#4 = some v → t.pc = alignWord v) ∧ s.spsr md = some t.cpsr := by
  obtain ⟨p, hp⟩ := s.spsr_isSome hmd
  have loaded := writeRegisters_loaded s md md up w rn list ws (readBlock_done_reads h).phys
  refine ⟨_, exec_ldmRestore_done hv hs hp hrn hl h, ?loaded, fun v h15 => ?pc, by simp [hp]⟩
  case loaded =>
    exact loaded.trans (fun q => State.preg_returnFrom _ _ _ q)
      ⟨fun md' => by simp [State.returnFrom], by simp⟩ fun a => by simp [State.returnFrom]
  case pc => rw [State.returnFrom_pc, getLastD_of_lookup_r15 (length_of_readBlock_done h) h15]

theorem exec_ldmUser_loaded (hv : viewOf i = .ldmUser c pre up false rn list) (hs : s.Executes md c) (hmd : md ≠ .usr)
    (hrn : rn ≠ 15#4) (hl : list ≠ 0#16)
    (h : readBlock s.cp15 md.privileged (listAddresses s md pre up rn list) s.sys = .done ws m) :
    ∃ t, exec i s = .next t ∧ s.Loaded t md .usr up false rn list ws ∧ t.pc = s.pc + 4#32 ∧ t.bankHazard = true ∧
      t.cpsr = s.cpsr := by
  have loaded := writeRegisters_loaded s md .usr up false rn list ws (readBlock_done_reads h).phys
  refine ⟨_, exec_ldmUser_done hv hs hmd hrn hl h, ?_, by simp, by simp, by simp⟩
  obtain ⟨regs, -, special, memory, -⟩ := State.advance_keeps
    (writeRegisters (blockWriteBack s (s.withSys m) md up false rn list) .usr (listRegisters list) ws)
  exact loaded.trans regs special memory

/-! ## The registers at the data abort of an LDM (rules R352, R355) -/

theorem State.bankValue_of_bank {p : PReg} (h : md.bank rn = some p) : s.bankValue md rn = s.preg p := by
  rw [State.bankValue, h]

/-- The registers from which the data abort of an LDM is taken: those of the words that came, and the base set last. -/
theorem abortedLoad_regs (s : State) (m : MemSys) (md dest : Mode) (up w : Bool) (rn : RegNo) (list : BitVec 16)
    (ws : List Word) (p : PReg) :
    ((writeRegisters (s.withSys m) dest (listRegisters list) ws).write md rn (blockBase s md up w rn list)).preg p =
      if md.bank rn = some p then if w = true then blockFinal up (s.read md rn 8#32) list else s.preg p
      else (writeRegisters (s.withSys m) dest (listRegisters list) ws).preg p := by
  rw [State.preg_write]
  split
  next hp => rw [blockBase, State.bankValue_of_bank hp]
  next => rfl

end

/-! ## The statements -/

/-- Settles O39: the words go to the registers, R15 by a branch; with the MMU off they are those that stand in memory. -/
theorem loadMultipleCompletes : Obligations.LoadMultipleCompletes := by
  intro i c pre up w rn list s md hv hs hrn hl
  refine ⟨fun hflat => ?flat, fun ws m h => ?any⟩
  case flat =>
    obtain ⟨m, h⟩ := readBlock_flat_list md.privileged hl hflat
    obtain ⟨t, ht, done, pc, wentOn, cpsr⟩ := exec_ldm_loaded hv hs hrn hl h
    exact ⟨t, ht, fun r _ hr => done.words r _ (lookup_blockWord hr), done.base rfl, done.regs,
      fun h15 => pc _ (lookup_blockWord h15), wentOn, cpsr, done.special, done.memory⟩
  case any =>
    obtain ⟨t, ht, done, pc, wentOn, cpsr⟩ := exec_ldm_loaded hv hs hrn hl h
    exact ⟨t, ht, length_of_readBlock_done h, done.words_and_pc pc, done.base rfl, done.regs, wentOn, cpsr, done.special,
      done.memory⟩

/-- Settles O40: as without the S bit, and the branch takes the SPSR to the CPSR. -/
theorem loadMultipleRestores : Obligations.LoadMultipleRestores := by
  intro i c pre up w rn list s md hv hs hmd hrn
  have h15 : listed list 15#4 := (viewOf_list i).2 c pre up w rn list hv
  have hl : list ≠ 0#16 := fun hl => by simp [listed, hl] at h15
  refine ⟨fun hflat => ?flat, fun ws m h => ?any⟩
  case flat =>
    obtain ⟨m, h⟩ := readBlock_flat_list md.privileged hl hflat
    obtain ⟨t, ht, done, pc, cpsr⟩ := exec_ldmRestore_loaded hv hs hmd hrn hl h
    exact ⟨t, ht, cpsr, pc _ (lookup_blockWord h15), fun r _ hr => done.words r _ (lookup_blockWord hr), done.base rfl,
      done.regs, done.special, done.memory⟩
  case any =>
    obtain ⟨t, ht, done, pc, cpsr⟩ := exec_ldmRestore_loaded hv hs hmd hrn hl h
    exact ⟨t, ht, length_of_readBlock_done h, cpsr, done.words_and_pc pc, done.base rfl, done.regs, done.special,
      done.memory⟩

/-- Settles O41: the words go to the User bank, there is no write-back, and the hazard is raised for what comes next. -/
theorem loadMultipleUserBank : Obligations.LoadMultipleUserBank := by
  intro i c pre up rn list s md hv hs hmd hrn hl
  have regs : ∀ {t ws}, s.Loaded t md .usr up false rn list ws → ∀ p,
      (∃ r, listed list r ∧ Mode.usr.bank r = some p) ∨ t.preg p = s.preg p :=
    fun done p => (done.regs p).imp_right (·.resolve_left fun hw => Bool.false_ne_true hw.1)
  refine ⟨fun hflat => ?flat, fun ws m h => ?any⟩
  case flat =>
    obtain ⟨m, h⟩ := readBlock_flat_list md.privileged hl hflat
    obtain ⟨t, ht, done, pc, hazard, cpsr⟩ := exec_ldmUser_loaded hv hs hmd hrn hl h
    exact ⟨t, ht, fun r hr => done.words r _ (lookup_blockWord hr), regs done, pc, hazard, cpsr, done.special, done.memory⟩
  case any =>
    obtain ⟨t, ht, done, pc, hazard, cpsr⟩ := exec_ldmUser_loaded hv hs hmd hrn hl h
    exact ⟨t, ht, length_of_readBlock_done h, done.words, regs done, pc, hazard, cpsr, done.special, done.memory⟩

/-- Settles O43: the reads before the abort have loaded their registers, and the base is set after them. -/
theorem loadMultipleAborts : Obligations.LoadMultipleAborts := by
  intro i c pre up w rn list s md dst ws f m hv hs hrn hl h
  have regs := abortedLoad_regs s m md dst up w rn list ws
  obtain ⟨entered, records, memory⟩ := State.dataAbort_spec
    ((writeRegisters (s.withSys m) dst (listRegisters list) ws).write md rn (blockBase s md up w rn list)) f
  refine ⟨_, _, exec_ldm_aborted hv hs hrn hl h, entered, records.of_cp15 (by simp), fun a => (memory a).trans ?memory,
    by simp, by simp, fun k => by simp [State.spsr_writeRegisters], fun r v hr hne p hp => ?words, fun hw p hp => ?base,
    fun p => ?regs⟩
  case memory => simpa using (readBlock_aborted_reads h).phys a
  case words =>
    rw [regs, if_neg (hp ▸ hne.symm)]
    exact writeRegisters_holds (listRegisters_nodup list) _ dst (mem_zip_of_lookup hr) p hp
  case base => rw [regs, if_pos hp, if_pos hw]
  case regs =>
    rw [regs]
    by_cases hp : md.bank rn = some p
    · by_cases hw : w = true
      · exact .inr (.inl ⟨hw, hp⟩)
      · exact .inr (.inr (by rw [if_pos hp, if_neg hw]))
    · by_cases hlist : ∃ x ∈ (listRegisters list).zip ws, dst.bank x.1 = some p
      · obtain ⟨x, hx, hxp⟩ := hlist
        exact .inl ⟨x.1, isSome_lookup_of_mem_zip hx, hxp, hp⟩
      · refine .inr (.inr ?_)
        rw [if_neg hp, preg_writeRegisters_of_ne _ dst fun x hx hxp => hlist ⟨x, hx, hxp⟩, State.preg_withSys]

end Sys2Proof.Machine
end

section
/-! SUPPORT. Block stores that are executed: the words that stand in memory after them, the first transfer that aborts, and the
places that may change; the statements O20, O42, O44. -/

namespace Sys2Proof.Machine

/-! ## What a list of word stores leaves (rules R82, R92) -/

section
variable {be : Bool} {ts : List (Word × Word)} {a : Nat}

theorem storedByte_word_of_ne {pa v : Word} (h : a / 4 ≠ wordIndex pa) : storedByte .word be pa v a = none :=
  if_neg h

theorem afterStores_of_ne (h : ∀ t ∈ ts, a / 4 ≠ wordIndex t.1) (f : Nat → Byte) : afterStores be ts f a = f a := by
  induction ts generalizing f with
  | nil => rfl
  | cons t ts ih =>
    rw [afterStores, ih fun x hx => h x (.tail _ hx), storedByte_word_of_ne (h t (.head _)), Option.getD_none]

/-- If no two stores go to one word, each word stands where it was stored. -/
theorem afterStores_of_mem {t : Word × Word} (hts : ts.Pairwise fun x y => wordIndex x.1 ≠ wordIndex y.1) (ht : t ∈ ts)
    (ha : a / 4 = wordIndex t.1) (f : Nat → Byte) : afterStores be ts f a = laneByte t.2 (a % 4) := by
  induction ts generalizing f with
  | nil => cases ht
  | cons x xs ih =>
    obtain ⟨hx, hxs⟩ := List.pairwise_cons.1 hts
    rw [afterStores]
    rcases List.mem_cons.1 ht with rfl | htail
    · have hbyte : storedByte .word be t.1 t.2 a = some (laneByte t.2 (a % 4)) := if_pos ha
      rw [afterStores_of_ne (fun y hy => ha ▸ hx y hy), hbyte, Option.getD_some]
    · exact ih hxs htail _

theorem physWord_eq_of_physByte {m : MemSys} {wa : Nat} {v : Word}
    (h : ∀ b, b / 4 = wa → m.physByte b = laneByte v (b % 4)) : m.physWord wa = v := by
  refine eq_of_laneByte_eq fun k hk => ?_
  rw [laneByte_physWord m wa hk, h _ (by omega), show (4 * wa + k) % 4 = k by omega]

end

/-! ## The transfers of an STM (rules R341, R347, R351, R352) -/

section
variable {pre up w : Bool} {rn r q : RegNo} {list : BitVec 16} {s t : State} {md bank : Mode}

/-- No two transfers go to one word, even past the top of memory (D5). -/
theorem blockAddress_wordIndex_inj (hr : listed list r) (hq : listed list q)
    (h : wordIndex (blockAddress s md pre up rn list r) = wordIndex (blockAddress s md pre up rn list q)) : r = q := by
  obtain ⟨j, hj⟩ := List.mem_iff_getElem?.1 ((mem_listRegisters list r).2 hr)
  obtain ⟨k, hk⟩ := List.mem_iff_getElem?.1 ((mem_listRegisters list q).2 hq)
  have hcount : (listRegisters list).length ≤ 16 := listCount_le list
  obtain ⟨hjlt, -⟩ := List.getElem?_eq_some_iff.1 hj
  obtain ⟨hklt, -⟩ := List.getElem?_eq_some_iff.1 hk
  rw [blockAddress_of_get hj, blockAddress_of_get hk, wordIndex, wordIndex, BitVec.toNat_add, BitVec.toNat_add,
    BitVec.toNat_ofNat, BitVec.toNat_ofNat] at h
  have hjk : j = k := by omega
  subst hjk
  exact Option.some.inj (hj.symm.trans hk)

/-- The transfers of an STM, register by register. -/
theorem blockTransfers_eq_map (s : State) (md bank : Mode) (pre up w : Bool) (rn : RegNo) (list : BitVec 16) :
    blockTransfers s md bank pre up w rn list = (listRegisters list).map fun r =>
      (blockAddress s md pre up rn list r, blockStored s md bank up w rn list r) := by
  rw [blockTransfers, listAddresses_eq, List.zip_map']

theorem mem_blockTransfers {x : Word × Word} : x ∈ blockTransfers s md bank pre up w rn list ↔
    ∃ r, listed list r ∧ (blockAddress s md pre up rn list r, blockStored s md bank up w rn list r) = x := by
  simp only [blockTransfers_eq_map, List.mem_map, mem_listRegisters]

theorem blockTransfers_pairwise (s : State) (md bank : Mode) (pre up w : Bool) (rn : RegNo) (list : BitVec 16) :
    (blockTransfers s md bank pre up w rn list).Pairwise fun x y => wordIndex x.1 ≠ wordIndex y.1 := by
  rw [blockTransfers_eq_map, List.pairwise_map]
  refine (listRegisters_nodup list).imp_of_mem fun hr hq hne h => ?_
  exact hne (blockAddress_wordIndex_inj ((mem_listRegisters list _).1 hr) ((mem_listRegisters list _).1 hq) h)

/-- The first register of a list is the lowest. -/
theorem head?_listRegisters_ne_iff (hr : listed list r) :
    (listRegisters list).head? ≠ some r ↔ ∃ q : RegNo, listed list q ∧ q.toNat < r.toNat := by
  have hsorted := listRegisters_sorted list
  have hmem := mem_listRegisters list
  obtain ⟨x, xs, hl⟩ := List.exists_cons_of_ne_nil (List.ne_nil_of_mem ((hmem r).2 hr))
  rw [hl] at hsorted hmem
  obtain ⟨hx, -⟩ := List.pairwise_cons.1 hsorted
  rw [hl, List.head?_cons, ne_eq, Option.some_inj]
  refine ⟨fun hne => ⟨x, (hmem x).1 (.head _), ?_⟩, ?_⟩
  · exact hx r ((List.mem_cons.1 ((hmem r).2 hr)).resolve_left (Ne.symm hne))
  · rintro ⟨q, hq, hlt⟩ rfl
    rcases List.mem_cons.1 ((hmem q).2 hq) with rfl | hq
    · exact lt_irrefl _ hlt
    · exact lt_asymm hlt (hx q hq)

theorem blockStored_base (hrn : listed list rn) (hw : w = true) (h : ∃ q : RegNo, listed list q ∧ q.toNat < rn.toNat) :
    blockStored s md bank up w rn list rn = blockFinal up (s.read md rn 8#32) list := by
  have hfirst := (head?_listRegisters_ne_iff hrn).2 h
  simp [blockStored, hw, hfirst]

theorem blockStored_register (hr : listed list r)
    (h : ¬ (w = true ∧ r = rn ∧ ∃ q : RegNo, listed list q ∧ q.toNat < r.toNat)) :
    blockStored s md bank up w rn list r = s.readAs md bank r 12#32 := by
  rw [← head?_listRegisters_ne_iff hr] at h
  refine if_neg fun hc => h ?_
  simpa [and_assoc] using hc

/-- After an STM whose stores are all made each transfer's value stands at its address. -/
theorem physWord_of_afterStores {m : MemSys} {be : Bool} {f : Nat → Byte}
    (hm : ∀ a, m.physByte a = afterStores be (blockTransfers s md bank pre up w rn list) f a) (hr : listed list r) :
    m.physWord (wordIndex (blockAddress s md pre up rn list r)) = blockStored s md bank up w rn list r := by
  refine physWord_eq_of_physByte fun b hb => ?_
  rw [hm]
  exact afterStores_of_mem (blockTransfers_pairwise s md bank pre up w rn list) (mem_blockTransfers.2 ⟨r, hr, rfl⟩) hb f

/-- A byte in none of the words of the listed registers is in no transfer's word. -/
theorem ne_of_mem_blockTransfers {a : Nat}
    (ha : ∀ r, listed list r → a / 4 ≠ wordIndex (blockAddress s md pre up rn list r)) :
    ∀ x ∈ blockTransfers s md bank pre up w rn list, a / 4 ≠ wordIndex x.1 := by
  intro x hx
  obtain ⟨r, hr, rfl⟩ := mem_blockTransfers.1 hx
  exact ha r hr

end

/-! ## The first transfer that aborts (rule R354) -/

section
variable {cp : Cp15} {priv : Bool} {f g : MemFault} {ts : List (Word × Word)} {style : WriteStyle} {m m' : MemSys}

/-- What follows a transfer that aborted does not change its fault. -/
theorem writeRest_fault (h : writeRest cp priv f ts m = .abort g m') : g = f := by
  induction ts generalizing m with
  | nil => cases h; rfl
  | cons t ts ih =>
    rw [writeRest] at h
    split at h
    · split at h
      next => cases h
      next => exact ih h
      next => exact ih h
    · exact ih h

theorem writeBlock_first_abort (h : writeBlock cp priv style ts m = .abort f m') :
    ∃ k av m1 m2, ts[k]? = some av ∧ writeBlock cp priv style (ts.take k) m = .ok () m1 ∧
      memWrite cp (if k = 0 then style else .sequential) .word av.1 priv av.2 m1 = .abort f m2 := by
  induction ts generalizing m style with
  | nil => cases h
  | cons t ts ih =>
    rw [writeBlock] at h
    split at h
    next => cases h
    next g m1 hwrite =>
      obtain rfl := writeRest_fault h
      exact ⟨0, t, m, m1, rfl, rfl, hwrite⟩
    next m1 hwrite =>
      obtain ⟨k, av, m2, m3, hk, hbefore, habort⟩ := ih h
      refine ⟨k + 1, av, m2, m3, hk, ?_, by simpa using habort⟩
      rw [List.take_succ_cons, writeBlock, hwrite]
      exact hbefore

end

/-! ## The places an STM may change (rules R124, R347, R354) -/

/-- Every byte outside the words at `places` is in `m'` as in `m`. -/
def MemSys.KeepsBut (m : MemSys) (places : List Word) (m' : MemSys) : Prop :=
  ∀ a, (∀ pa ∈ places, a / 4 ≠ wordIndex pa) → m'.physByte a = m.physByte a

section
variable {cp : Cp15} {priv : Bool} {ts : List (Word × Word)} {m m1 m2 : MemSys} {places places' : List Word}

theorem MemSys.Reads.keepsBut (h : m.Reads m1) (places : List Word) : m.KeepsBut places m1 :=
  fun a _ => h.phys a

theorem MemSys.KeepsBut.trans (h : m.KeepsBut places m1) (k : m1.KeepsBut places' m2) :
    m.KeepsBut (places ++ places') m2 := fun a ha =>
  (k a fun pa hpa => ha pa (List.mem_append_right _ hpa)).trans (h a fun pa hpa => ha pa (List.mem_append_left _ hpa))

theorem Access.Leaves.mono {α : Type} {P Q : MemSys → Prop} {x : Access α} (h : x.Leaves P) (hPQ : ∀ m, P m → Q m) :
    x.Leaves Q := by
  cases x with
  | ok a m' => exact hPQ m' h
  | abort f m' => exact hPQ m' h
  | refuse r => trivial

/-- A word store changes the word at the place its translation gives, or nothing (rules R89, R96). -/
theorem memWrite_keepsBut (cp : Cp15) (style : WriteStyle) (va : Word) (priv : Bool) (v : Word) (m : MemSys) :
    (memWrite cp style .word va priv v m).Leaves (m.KeepsBut (wordPlace cp priv va m)) := by
  cases hmis : misaligned cp .word va with
  | true =>
    rw [memWrite_misaligned hmis]
    exact (MemSys.Reads.refl m).keepsBut _
  | false =>
    refine (memWrite_stored cp style .word va priv v m).mono fun m' hst => ?_
    rcases hst with hreads | ⟨t, m1, ht, hwrote⟩
    · exact hreads.keepsBut _
    · intro a ha
      have hne : a / 4 ≠ wordIndex t.pa := ha t.pa (by simp [wordPlace, hmis, ht])
      rw [hwrote.stored (translate_low ht), storedByte_word_of_ne hne, Option.getD_none]

theorem writeRest_keepsBut (f : MemFault) (m : MemSys) :
    (writeRest cp priv f ts m).Leaves (m.KeepsBut (restPlaces cp priv ts m)) := by
  induction ts generalizing m with
  | nil => exact (MemSys.Reads.refl m).keepsBut _
  | cons t ts ih =>
    obtain ⟨va, v⟩ := t
    have hdraw := (m.drawBit_reads).keepsBut []
    rw [writeRest, restPlaces]
    cases hbit : m.drawBit.1 with
    | false => exact (ih _).mono fun m' h => hdraw.trans h
    | true =>
      have hst := memWrite_keepsBut cp .sequential va priv v m.drawBit.2
      cases hwrite : memWrite cp .sequential .word va priv v m.drawBit.2 with
      | refuse r => trivial
      | abort g m1 => exact (ih m1).mono fun m' h => (hdraw.trans (hst.abort hwrite)).trans h
      | ok u m1 => exact (ih m1).mono fun m' h => (hdraw.trans (hst.ok hwrite)).trans h

theorem writeBlock_keepsBut (style : WriteStyle) (m : MemSys) :
    (writeBlock cp priv style ts m).Leaves (m.KeepsBut (blockPlaces cp priv style ts m)) := by
  induction ts generalizing m style with
  | nil => exact (MemSys.Reads.refl m).keepsBut _
  | cons t ts ih =>
    obtain ⟨va, v⟩ := t
    have hst := memWrite_keepsBut cp style va priv v m
    rw [writeBlock, blockPlaces]
    cases hwrite : memWrite cp style .word va priv v m with
    | refuse r => trivial
    | abort f m1 => exact (writeRest_keepsBut f m1).mono fun m' h => (hst.abort hwrite).trans h
    | ok u m1 => exact (ih .sequential m1).mono fun m' h => (hst.ok hwrite).trans h

end

/-! ## Reading through to the end of the instruction -/

section
variable {i : Instr} {user : Bool} {c : Cond} {pre up w : Bool} {rn : RegNo} {list : BitVec 16} {s t : State} {md : Mode}
  {f : MemFault} {m : MemSys}

theorem exec_stm (hv : viewOf i = if user then .stmUser c pre up w rn list else .stm c pre up w rn list)
    (hs : s.Executes md c) (hrn : rn ≠ 15#4) (hl : list ≠ 0#16) (huser : user = true → md ≠ .usr ∧ w = false) :
    exec i s = storeFinish s md up w rn list (writeBlock s.cp15 md.privileged .single
      (blockTransfers s md (if user then .usr else md) pre up w rn list) s.sys) := by
  have hr := blockRestriction_none hrn hl
  cases user with
  | false =>
    have hv : viewOf i = .stm c pre up w rn list := hv
    rw [exec_eq_meaning, hv, View.meaning, storeBlock, hs.run, hr]
    rfl
  | true =>
    obtain ⟨hmd, rfl⟩ := huser rfl
    have hv : viewOf i = .stmUser c pre up false rn list := hv
    rw [exec_eq_meaning, hv, View.meaning, storeBlockUser, hs.run, hr, Mode.privileged_of_ne hmd]
    rfl

/-- An STM that answers a next state has passed every restriction. -/
theorem exec_stm_next (hv : viewOf i = if user then .stmUser c pre up w rn list else .stm c pre up w rn list)
    (hs : s.Executes md c) (h : exec i s = .next t) :
    storeFinish s md up w rn list (writeBlock s.cp15 md.privileged .single
      (blockTransfers s md (if user then .usr else md) pre up w rn list) s.sys) = .next t := by
  cases user with
  | false =>
    have hv : viewOf i = .stm c pre up w rn list := hv
    rw [exec_eq_meaning, hv, View.meaning, storeBlock, hs.run] at h
    split at h
    next => cases h
    next => exact h
  | true =>
    have hv : viewOf i = .stmUser c pre up w rn list := hv
    rw [exec_eq_meaning, hv, View.meaning, storeBlockUser, hs.run] at h
    split at h
    next => cases h
    next =>
      split at h
      · cases h
      · split at h
        · cases h
        · exact h

/-! ## The ends of an STM (rules R347, R352, R354) -/

theorem blockWriteBack_withSys (s : State) (m : MemSys) (md : Mode) (up w : Bool) (rn : RegNo) (list : BitVec 16) :
    blockWriteBack s (s.withSys m) md up w rn list =
      (if w then s.write md rn (blockFinal up (s.read md rn 8#32) list) else s).withSys m := by
  unfold blockWriteBack State.write
  split
  · split <;> rfl
  · rfl

theorem blockWriteBack_advance_spec (s : State) (m : MemSys) (md : Mode) (up w : Bool) (rn : RegNo) (list : BitVec 16)
    (ht : t = (blockWriteBack s (s.withSys m) md up w rn list).advance) :
    (∀ a, t.sys.physByte a = m.physByte a) ∧
      (if w then s.KeepsRegsBut t md rn ∧ t.Holds md rn (blockFinal up (s.read md rn 8#32) list) else s.KeepsRegs t) ∧
      t.cpsr = s.cpsr ∧ s.KeepsSpecial t ∧ s.WentOn t := by
  subst ht
  refine ⟨fun a => by simp, ?regs, by simp, ⟨fun md' => by simp [State.spsr_blockWriteBack], by simp⟩, by simp, by simp⟩
  cases w with
  | false => exact fun p => by rw [State.preg_advance]; rfl
  | true =>
    obtain ⟨keeps, holds, -⟩ := (s.withSys m).write_advance_keeps md rn (blockFinal up (s.read md rn 8#32) list)
    exact ⟨keeps, holds⟩

/-- The data abort of an STM is taken with the base written back, and memory is what the transfers left. -/
theorem blockWriteBack_dataAbort_spec (s : State) (m : MemSys) (md : Mode) (up w : Bool) (rn : RegNo)
    (list : BitVec 16) (f : MemFault) (ht : t = (blockWriteBack s (s.withSys m) md up w rn list).dataAbort f) :
    (if w then s.write md rn (blockFinal up (s.read md rn 8#32) list) else s).Entered t .dataAbort ∧ s.Records t f ∧
      t.preg .r14Abt = s.pc + 8#32 ∧ ∀ a, t.sys.physByte a = m.physByte a := by
  subst ht
  obtain ⟨entered, records, keeps⟩ := (blockWriteBack s (s.withSys m) md up w rn list).dataAbort_spec f
  have hlink := entered.link
  rw [State.blockWriteBack_pc] at hlink
  refine ⟨State.Entered.of_withSys (m := m) ?_, records.of_cp15 (by simp), hlink, fun a => (keeps a).trans (by simp)⟩
  rw [← blockWriteBack_withSys]
  exact entered

/-- How an STM ends that answers a next state. -/
theorem storeFinish_next {x : Access Unit} (h : storeFinish s md up w rn list x = .next t) :
    ∃ m, (x = .ok () m ∧ t = (blockWriteBack s (s.withSys m) md up w rn list).advance) ∨
      ∃ f, x = .abort f m ∧ t = (blockWriteBack s (s.withSys m) md up w rn list).dataAbort f := by
  cases x with
  | refuse r => cases h
  | abort f m => cases h; exact ⟨m, .inr ⟨f, rfl, rfl⟩⟩
  | ok u m => cases h; exact ⟨m, .inl ⟨rfl, rfl⟩⟩

/-- Either end keeps memory as the transfers left it, and the registers but the base and R14_abt. -/
theorem storeFinish_frame {x : Access Unit} {P : MemSys → Prop} (h : storeFinish s md up w rn list x = .next t)
    (hx : x.Leaves P) :
    (∃ m, P m ∧ ∀ a, t.sys.physByte a = m.physByte a) ∧
      ∀ p, (w = true ∧ md.bank rn = some p) ∨ p = .r14Abt ∨ t.preg p = s.preg p := by
  obtain ⟨m, ⟨rfl, rfl⟩ | ⟨f, rfl, rfl⟩⟩ := storeFinish_next h
  · refine ⟨⟨m, hx, fun a => by simp⟩, fun p => ?_⟩
    rw [State.preg_advance, preg_blockWriteBack]
    exact (em _).imp_right fun hp => .inr (if_neg hp)
  · obtain ⟨entered, -, keeps⟩ := (blockWriteBack s (s.withSys m) md up w rn list).dataAbort_spec f
    refine ⟨⟨m, hx, fun a => (keeps a).trans (by simp)⟩, fun p => ?_⟩
    have hkept := entered.regs p
    rw [preg_blockWriteBack] at hkept
    exact (em _).imp_right fun hp => hkept.imp_right (·.trans (if_neg hp))

end

/-! ## The statements -/

/-- Settles O20: the fault is that of the first transfer that aborts, and the data abort follows the write-back. -/
theorem storeMultipleAborts : Obligations.StoreMultipleAborts := by
  intro i user c pre up w rn list s md ts f m hv hs hrn hl huser hts h
  subst hts
  obtain ⟨entered, records, link, -⟩ := blockWriteBack_dataAbort_spec s m md up w rn list f rfl
  exact ⟨writeBlock_first_abort h, _, (exec_stm hv hs hrn hl huser).trans (by rw [h]; rfl), link, records, entered⟩

/-- Settles O42: with the MMU off all transfers are made, no two of them to one word; then the base is written back. -/
theorem storeMultipleCompletes : Obligations.StoreMultipleCompletes := by
  intro i user c pre up w rn list s md hv hs hrn hl huser
  refine ⟨fun hmmu hplain => ?flat, fun m h => ?any⟩
  case flat =>
    obtain ⟨m, h, hm⟩ := writeBlock_flat (priv := md.privileged) hmmu
      (blockTransfers s md (if user then .usr else md) pre up w rn list) .single (by decide) s.sys fun x hx => by
        obtain ⟨r, hr, rfl⟩ := mem_blockTransfers.1 hx
        exact hplain r hr
    obtain ⟨memory, regs, cpsr, special, wentOn⟩ := blockWriteBack_advance_spec s m md up w rn list rfl
    have hmem := fun a => (memory a).trans (hm a)
    refine ⟨_, (exec_stm hv hs hrn hl huser).trans (by rw [h]; rfl), fun r hr hnot => ?_, fun hw hr hlower => ?_,
      fun a ha => ?_, regs, cpsr, special, wentOn⟩
    · exact (physWord_of_afterStores hmem hr).trans (blockStored_register hr hnot)
    · exact (physWord_of_afterStores hmem hr).trans (blockStored_base hr hw hlower)
    · exact (hmem a).trans (afterStores_of_ne (ne_of_mem_blockTransfers ha) s.sys.physByte)
  case any =>
    exact ⟨_, (exec_stm hv hs hrn hl huser).trans (by rw [h]; rfl),
      blockWriteBack_advance_spec s m md up w rn list rfl⟩

/-- Settles O44: each transfer changes its place alone, before an abort and after it. -/
theorem storeMultipleFrame : Obligations.StoreMultipleFrame := by
  intro i user c pre up w rn list s t md hv hs h
  have hend := exec_stm_next hv hs h
  obtain ⟨⟨m, hm, hmem⟩, hregs⟩ := storeFinish_frame hend (writeBlock_keepsBut .single s.sys)
  refine ⟨fun a ha => (hmem a).trans (hm a ha), fun hmmu a ha => ?_, hregs⟩
  obtain ⟨⟨m', hm', hmem'⟩, -⟩ := storeFinish_frame hend (writeBlock_frame s.cp15 md.privileged hmmu _ .single s.sys)
  exact (hmem' a).trans (hm' a (ne_of_mem_blockTransfers ha))

end Sys2Proof.Machine
end

section
/-! SUPPORT. Swaps that are executed: how the locked read and write decide the end of a swap, and what each end leaves of
memory; the statements O29, O30. -/

namespace Sys2Proof.Machine

/-- Sequencing aborts exactly when one of the two parts does. -/
theorem Access.andThen_abort {α β : Type} {x : Access α} {k : α → MemSys → Access β} {f : MemFault} {m' : MemSys} :
    x.andThen k = .abort f m' ↔ x = .abort f m' ∨ ∃ a m1, x = .ok a m1 ∧ k a m1 = .abort f m' := by
  cases x <;> simp [Access.andThen]

/-! ## The locked read and write (rules R163, R170, R371, R372, R374) -/

section
variable {cp : Cp15} {sz : Size} {va v old : Word} {priv : Bool} {m m' m1 : MemSys} {f : MemFault}

/-- With the MMU off, the locked read of plain memory brings the stored word, whether or not it is cached (rule R163). -/
theorem lockedRead_flat (hm : cp.mmuOn = false) (ha : m.asserts .lockedRead va = false) (hv : m.isVolatile va = false)
    (hal : misaligned cp sz va = false) :
    lockedRead cp sz va priv m = .ok (sz.loaded cp.bigEndian va (m.physWord (wordIndex va))) m.drainAll := by
  simp [lockedRead, hal, translate_off hm, Access.andThen, uncachedRead, MemSys.externalRead_word ha hv]

/-- A swap answers what its read brought, if its write too ends well. -/
theorem swapAccess_ok : swapAccess cp sz va priv v m = .ok old m' ↔
    ∃ m1, lockedRead cp sz va priv m = .ok old m1 ∧ memWrite cp .locked sz va priv v m1 = .ok () m' := by
  simp only [swapAccess, Access.andThen_ok]
  constructor
  · rintro ⟨w, m1, hread, ⟨⟩, m2, hwrite, he⟩
    cases he
    exact ⟨m1, hread, hwrite⟩
  · rintro ⟨m1, hread, hwrite⟩
    exact ⟨old, m1, hread, (), m', hwrite, rfl⟩

/-- A swap aborts at its read, or at its write once the read has ended well. -/
theorem swapAccess_abort : swapAccess cp sz va priv v m = .abort f m' ↔
    lockedRead cp sz va priv m = .abort f m' ∨
      ∃ w m1, lockedRead cp sz va priv m = .ok w m1 ∧ memWrite cp .locked sz va priv v m1 = .abort f m' := by
  simp [swapAccess, Access.andThen_abort]

/-- A locked write that ends well has stored its bytes at the translated address: it does not pass the write buffer, where a
location that asserts ABORT could lose it (rules R152, R170). -/
theorem memWrite_locked_stores {tr : Translation} {m2 : MemSys} (h : memWrite cp .locked sz va priv v m = .ok () m')
    (htr : translate cp va true priv m = .ok tr m2) (a : Nat) :
    m'.physByte a = (storedByte sz cp.bigEndian tr.pa v a).getD (m.physByte a) := by
  obtain ⟨-, tr', m2', htr', hwrote | ⟨hstyle, -⟩⟩ := memWrite_ok h
  · rw [htr] at htr'
    cases htr'
    exact hwrote.stored (translate_low htr) a
  · exact absurd rfl hstyle

/-- With the MMU off a store leaves the bytes outside its own as they were, however it ended (rules R101, R150). -/
theorem Stored.physByte_of_off (h : Stored cp sz va priv v m m') (hm : cp.mmuOn = false) {a : Nat}
    (ha : storedByte sz cp.bigEndian va v a = none) : m'.physByte a = m.physByte a := by
  rcases h with hreads | ⟨tr, m1, htr, hwrote⟩
  · exact hreads.phys a
  · rw [translate_off hm] at htr
    cases htr
    rw [hwrote.stored rfl, ha, Option.getD_none]

end

/-! ## The two ends of the instruction -/

section
variable {i : Instr} {sz : Size} {c : Cond} {rn rd rm : RegNo} {s : State} {md : Mode} {f : MemFault} {old : Word}
  {m : MemSys}

theorem exec_swap_ok (hv : viewOf i = .swap sz c rn rd rm) (hs : s.Executes md c) (hrd : rd ≠ 15#4) (hrn : rn ≠ 15#4)
    (hrm : rm ≠ 15#4)
    (h : swapAccess s.cp15 sz (s.read md rn 8#32) md.privileged (s.read md rm 8#32) s.sys = .ok old m) :
    exec i s = .next ((s.withSys m).write md rd old).advance := by
  rw [exec_eq_meaning, hv, View.meaning, swap, hs.run, if_neg (by simp [hrd, hrn, hrm])]
  simp only [h]

theorem exec_swap_abort (hv : viewOf i = .swap sz c rn rd rm) (hs : s.Executes md c) (hrd : rd ≠ 15#4) (hrn : rn ≠ 15#4)
    (hrm : rm ≠ 15#4)
    (h : swapAccess s.cp15 sz (s.read md rn 8#32) md.privileged (s.read md rm 8#32) s.sys = .abort f m) :
    exec i s = .next ((s.withSys m).dataAbort f) := by
  rw [exec_eq_meaning, hv, View.meaning, swap, hs.run, if_neg (by simp [hrd, hrn, hrm])]
  simp only [h]

/-- The access and the write of Rd change one register and memory, and nothing else but the pc. -/
theorem withSys_write_advance_spec (s : State) (m : MemSys) (md : Mode) (rd : RegNo) (v : Word) {t : State}
    (ht : t = ((s.withSys m).write md rd v).advance) :
    s.KeepsRegsBut t md rd ∧ t.Holds md rd v ∧ (∀ a, t.sys.physByte a = m.physByte a) ∧ t.cpsr = s.cpsr ∧
      s.KeepsSpecial t ∧ s.WentOn t := by
  subst ht
  obtain ⟨keeps, holds, cpsr, ⟨spsr, cp15⟩, memory, wentOn⟩ := (s.withSys m).write_advance_keeps md rd v
  exact ⟨keeps, holds, memory, cpsr, ⟨fun k => (spsr k).trans (s.spsr_withSys m k), cp15⟩, wentOn⟩

end

/-! ## The statements -/

/-- Settles O29: a swap that is answered wrote where its write is translated; with the MMU off it is answered. -/
theorem swapCompletes : Obligations.SwapCompletes := by
  intro i sz c rn rd rm s md hv hs hrd hrn hrm
  refine ⟨fun hmmu hread hwrite hvolatile hmis => ?flat, fun old m h => ?any⟩
  case flat =>
    obtain ⟨m, hm, hmem, -⟩ := memWrite_flat (st := .locked) (m := s.sys.drainAll) (s.read md rm 8#32) md.privileged hmmu
      hwrite hmis
    obtain ⟨keeps, holds, memory, rest⟩ := withSys_write_advance_spec s m md rd _ rfl
    exact ⟨_, exec_swap_ok hv hs hrd hrn hrm (swapAccess_ok.2 ⟨_, lockedRead_flat hmmu hread hvolatile hmis, hm⟩), keeps,
      holds, fun a => by rw [memory, hmem, s.sys.drainAll_reads.phys], rest⟩
  case any =>
    obtain ⟨keeps, holds, memory, rest⟩ := withSys_write_advance_spec s m md rd old rfl
    refine ⟨_, exec_swap_ok hv hs hrd hrn hrm h, keeps, holds, fun old' m1 tr m2 hread htr => ?_, rest⟩
    obtain ⟨m1', hread', hwrite⟩ := swapAccess_ok.1 h
    rw [hread] at hread'
    cases hread'
    have hreads := (lockedRead_onlyReads _ _ _ _ _).ok hread
    exact ⟨rfl, fun a => by rw [memory, memWrite_locked_stores hwrite htr, hreads.phys]⟩

/-- Settles O30: the abort is that of the read, which stores nothing, or of the write, which stores its bytes or nothing. -/
theorem swapAborts : Obligations.SwapAborts := by
  intro i sz c rn rd rm s md f m hv hs hrd hrn hrm h
  obtain ⟨entered, records, memory⟩ := (s.withSys m).dataAbort_spec f
  refine ⟨_, exec_swap_abort hv hs hrd hrn hrm h, entered.of_withSys, records.of_cp15 rfl, ?_⟩
  rcases swapAccess_abort.1 h with hread | ⟨w, m1, hread, hwrite⟩
  · have hreads := (lockedRead_onlyReads _ _ _ _ _).abort hread
    exact ⟨fun _ a => (memory a).trans (hreads.phys a), fun _ a _ => (memory a).trans (hreads.phys a)⟩
  · have hreads := (lockedRead_onlyReads _ _ _ _ _).ok hread
    have hstored := (memWrite_stored _ _ _ _ _ _ _).abort hwrite
    exact ⟨fun hnone => absurd hread (hnone w m1),
      fun hmmu a ha => ((memory a).trans (hstored.physByte_of_off hmmu ha)).trans (hreads.phys a)⟩

end Sys2Proof.Machine
end

section
/-! SUPPORT. Exceptions that are taken: what a state keeps through all that happens before its instruction, the entry of a trap, of
an interrupt and of a prefetch abort, Reset, and the ways out of User mode; the statements O9, O15, O46, O47, O48. -/

namespace Sys2Proof.Machine

/-! ## What only reads is not seen (rules R14, R63) -/

/-- A program sees in `u` what it sees in `s`: the registers, the PSRs, the pc, coprocessor 15 and memory, which has been read at
most. -/
structure State.SeenAs (s u : State) : Prop where
  sys : s.sys.Reads u.sys
  preg : u.preg = s.preg
  spsr : u.spsr = s.spsr
  cpsr : u.cpsr = s.cpsr
  pc : u.pc = s.pc
  cp15 : u.cp15 = s.cp15

section
variable {s t u : State} {md : Mode} {e : Exception}

theorem State.SeenAs.refl (s : State) : s.SeenAs s := ⟨.refl s.sys, rfl, rfl, rfl, rfl, rfl⟩

theorem State.SeenAs.withSys {m : MemSys} (h : s.SeenAs u) (hm : u.sys.Reads m) : s.SeenAs (u.withSys m) :=
  ⟨h.sys.trans hm, h.preg, (funext (u.spsr_withSys m)).trans h.spsr, h.cpsr, h.pc, h.cp15⟩

theorem State.SeenAs.fetched (h : s.SeenAs u) (md : Mode) : s.SeenAs (u.fetched md) :=
  h.withSys (u.sys.fillPipe_reads u.cp15 u.pc md.privileged)

/-- Before a step looks at its instruction it has taken its inputs and drained a part of the write buffer. -/
theorem State.drained_seenAs (s : State) : s.SeenAs (s.popInputs.2.withSys s.popInputs.2.sys.drainSome) := by
  obtain ⟨preg, spsr, cpsr, pc, cp15, sys, -⟩ := s.popInputs_same
  exact State.SeenAs.withSys ⟨sys ▸ .refl s.sys, preg, spsr, cpsr, pc, cp15⟩ (MemSys.drainSome_reads _)

theorem State.SeenAs.runs (h : s.SeenAs u) (hs : s.Runs md) : u.Runs md := by
  obtain ⟨hmode, hprog, hdata⟩ := hs
  exact ⟨(congrArg psrMode h.cpsr).trans hmode, h.cp15.symm ▸ hprog, h.cp15.symm ▸ hdata⟩

/-- An exception entered from `u` is entered from `s`, and leaves coprocessor 15 and memory as they were. -/
theorem State.SeenAs.takeException (h : s.SeenAs u) (e : Exception) :
    s.Entered (u.takeException e) e ∧ (u.takeException e).cp15 = s.cp15 ∧ s.KeepsMemory (u.takeException e) := by
  have entered := u.takeException_entered e
  refine ⟨?_, (u.takeException_cp15 e).trans h.cp15, fun a => (u.physByte_takeException e a).trans (h.sys.phys a)⟩
  exact
    { entered with
      link := h.pc ▸ entered.link
      regs := h.preg ▸ entered.regs
      saved := h.cpsr ▸ entered.saved
      spsrs := h.spsr ▸ entered.spsrs
      fiqMask := h.cpsr ▸ entered.fiqMask
      rest := h.cpsr ▸ entered.rest }

/-! ## Traps (rules R380, R385, R398, R420, R433, R436) -/

/-- Settles O46: whichever of these it is, the effect is the entry, from the state itself. -/
theorem trapsTaken : Obligations.TrapsTaken := by
  intro i c e s md hs h
  have hexec : exec i s = .next (s.takeException e) := by
    rcases h with ⟨hv, rfl⟩ | ⟨hv, rfl⟩ | ⟨rfl, rfl, zero, rd, ⟨src, hv⟩ | ⟨tgt, hv⟩⟩ <;>
      exact exec_of_viewOf hv (hs.run _)
  exact ⟨_, hexec, (State.SeenAs.refl s).takeException e⟩

/-! ## Interrupts and prefetch aborts (rules R434, R437, R438, R440) -/

/-- An interrupt that is due is taken before the pipeline is looked at. -/
theorem step_of_interrupt (hr : s.popInputs.1.reset = false) (hs : s.Runs md)
    (hi : pendingInterrupt s.popInputs.1 s = some e) :
    step s = .next ((s.popInputs.2.withSys s.popInputs.2.sys.drainSome).takeException e) := by
  have seen := s.drained_seenAs
  rw [pendingInterrupt, ← seen.cpsr] at hi
  rw [step_of_running hr, stepRunning, (seen.runs hs).gate, pendingInterrupt, hi]

theorem pendingInterrupt_fiq {inp : Inputs} (hin : inp.fiq = true) (hmask : s.cpsr.getLsbD 6 = false) :
    pendingInterrupt inp s = some .fiq := by
  have hF : psrF s.cpsr = false := hmask
  simp [pendingInterrupt, hin, hF]

/-- An IRQ is taken when no FIQ is. -/
theorem pendingInterrupt_irq {inp : Inputs} (hfiq : inp.fiq = false ∨ s.cpsr.getLsbD 6 = true) (hin : inp.irq = true)
    (hmask : s.cpsr.getLsbD 7 = false) : pendingInterrupt inp s = some .irq := by
  have hno : (inp.fiq && !psrF s.cpsr) = false := by rcases hfiq with h | h <;> simp [psrF, h]
  have hI : psrI s.cpsr = false := hmask
  simp [pendingInterrupt, hno, hin, hI]

/-- Settles O47: the interrupt that is due is entered from the drained state. -/
theorem interruptsTaken : Obligations.InterruptsTaken := by
  intro s md hr hs
  have taken := s.drained_seenAs.takeException
  exact
    ⟨fun hin hmask => ⟨_, step_of_interrupt hr hs (pendingInterrupt_fiq hin hmask), taken .fiq⟩,
      fun hfiq hin hmask => ⟨_, step_of_interrupt hr hs (pendingInterrupt_irq hfiq hin hmask), taken .irq⟩⟩

theorem executeHead_aborted {run : Instr → State → Result} (h : s.head = .aborted) :
    executeHead run s = .next (s.takeException .prefetchAbort) := by
  simp [executeHead, h]

/-- Settles O48: the marked word at the head is a prefetch abort, entered from the state after the fetches. -/
theorem prefetchAbortTaken : Obligations.PrefetchAbortTaken := by
  intro s u md hr hs hi hu hhead
  subst hu
  exact ⟨_, (step_eq_executeHead hr hs hi).trans (executeHead_aborted hhead),
    (s.drained_seenAs.fetched md).takeException .prefetchAbort⟩

/-! ## Reset (rules R432, R490) -/

theorem MemSys.resetEntry_wbuf (m : MemSys) : m.resetEntry.wbuf = [] := resetWrites_wbuf m.wbuf _ rfl

theorem State.preg_resetEntry (s : State) {p : PReg} (h : p ≠ .r14Svc) : s.resetEntry.preg p = s.preg p :=
  ((s.withSys s.sys.resetEntry).draw.2.draw.2.preg_setPreg .r14Svc p _).trans (if_neg h)

theorem State.spsr_resetEntry (s : State) {m : Mode} (h : m ≠ .svc) : s.resetEntry.spsr m = s.spsr m := by
  cases m with
  | svc => exact absurd rfl h
  | usr | fiq | irq | abt | und => rfl

/-- Settles O9: the fields as `State.resetEntry` gives them, after the inputs are taken. -/
theorem resetEntry : Obligations.ResetEntry := by
  intro s hr
  obtain ⟨hpreg, hspsr, -⟩ := s.popInputs_same
  obtain ⟨hI, hF, -⟩ := entryPsr_bits s.popInputs.2.cpsr .svc true
  refine ⟨_, step_of_reset hr, rfl, State.resetEntry_mode _, hI, hF, rfl, MemSys.tlbMatches_of_empty rfl,
    MemSys.cachedWord_of_empty rfl, MemSys.resetEntry_wbuf _, rfl, fun p => ?_, fun m => ?_⟩
  · rw [← hpreg]
    exact (em (p = .r14Svc)).imp_right (State.preg_resetEntry _)
  · rw [← hspsr]
    exact (em (m = .svc)).imp_right (State.spsr_resetEntry _)

/-! ## The ways out of User mode (rules R430, R472) -/

/-- The mode is that of an exception and the pc at a vector of it, Reset among them (Table of rule R430). -/
def State.AtVector (t : State) : Prop :=
  (t.mode = some .svc ∧ (t.pc = 0x00#32 ∨ t.pc = 0x08#32)) ∨ (t.mode = some .und ∧ t.pc = 0x04#32) ∨
    (t.mode = some .abt ∧ (t.pc = 0x0C#32 ∨ t.pc = 0x10#32)) ∨ (t.mode = some .irq ∧ t.pc = 0x18#32) ∨
    (t.mode = some .fiq ∧ t.pc = 0x1C#32)

theorem State.atVector_of_exception (hm : t.mode = some e.mode) (hv : t.pc = e.vector) : t.AtVector := by
  cases e with
  | softwareInterrupt => exact .inl ⟨hm, .inr hv⟩
  | undefined => exact .inr (.inl ⟨hm, hv⟩)
  | prefetchAbort => exact .inr (.inr (.inl ⟨hm, .inl hv⟩))
  | dataAbort => exact .inr (.inr (.inl ⟨hm, .inr hv⟩))
  | irq => exact .inr (.inr (.inr (.inl ⟨hm, hv⟩)))
  | fiq => exact .inr (.inr (.inr (.inr ⟨hm, hv⟩)))

theorem State.takeException_atVector (s : State) (e : Exception) : (s.takeException e).AtVector :=
  State.atVector_of_exception (s.takeException_entered e).mode (s.takeException_entered e).vector

theorem State.resetEntry_atVector (s : State) : s.resetEntry.AtVector := .inl ⟨s.resetEntry_mode, .inl rfl⟩

/-- The mode lies in the bits of the CPSR below the flags (rule R36). -/
theorem State.mode_of_cpsr_low (h : t.cpsr.extractLsb' 0 28 = s.cpsr.extractLsb' 0 28) : t.mode = s.mode := by
  have hlow : ∀ p : Word, p.extractLsb' 0 5 = (p.extractLsb' 0 28).extractLsb' 0 5 := fun p => by
    rw [BitVec.extractLsb'_extractLsb'_of_le (by decide)]
  rw [State.mode, State.mode, psrMode, psrMode, hlow, h, ← hlow]

/-- An instruction in User mode stays there or is at a vector (O14). -/
theorem exec_usr_mode {i : Instr} (hs : s.Runs .usr) (h : exec i s = .next t) : t.mode = some .usr ∨ t.AtVector := by
  rcases userModeConfined i s t hs h with ⟨hlow, -⟩ | ⟨e, -, hcpsr, -, hpc, -⟩
  · exact .inl ((State.mode_of_cpsr_low hlow).trans hs.1)
  · exact .inr (State.atVector_of_exception ((congrArg psrMode hcpsr).trans (entryPsr_mode _ _ _)) hpc)

/-- What comes of the head of the pipeline, if anything: a prefetch abort, the next word if this is no instruction, or the effect
of the instruction that it is. -/
theorem executeHead_next (h : executeHead exec s = .next t) :
    (∃ e, t = s.takeException e) ∨ t = s.advance ∨ ∃ i, exec i s = .next t := by
  unfold executeHead at h
  split at h
  next => cases h; exact .inl ⟨.prefetchAbort, rfl⟩
  next => cases h
  next w _ _ =>
    unfold executeWord at h
    split at h
    next i _ => exact .inr (.inr ⟨i, h⟩)
    next =>
      split at h
      next => cases h
      next => cases h; exact .inr (.inl rfl)

/-- What a step without Reset can do, in a state that is seen as the one before. -/
theorem stepRunning_next {inp : Inputs} (h : stepRunning exec inp s = .next t) :
    ∃ md u, s.Runs md ∧ s.SeenAs u ∧ ((∃ e, t = u.takeException e) ∨ t = u.advance ∨ ∃ i, exec i u = .next t) := by
  obtain ⟨md, hs, h⟩ := State.gate_next h
  split at h
  next e _ => cases h; exact ⟨md, s, hs, .refl s, .inl ⟨e, rfl⟩⟩
  next => exact ⟨md, s.fetched md, hs, (State.SeenAs.refl s).fetched md, executeHead_next h⟩

theorem stepRunning_usr_mode {inp : Inputs} (hs : s.mode = some .usr) (h : stepRunning exec inp s = .next t) :
    t.mode = some .usr ∨ t.AtVector := by
  obtain ⟨md, u, hruns, seen, does⟩ := stepRunning_next h
  obtain rfl : Mode.usr = md := Option.some.inj (hs.symm.trans hruns.1)
  have hu := seen.runs hruns
  rcases does with ⟨e, rfl⟩ | rfl | ⟨i, h⟩
  · exact .inr (u.takeException_atVector e)
  · exact .inl ((congrArg psrMode u.advance_cpsr).trans hu.1)
  · exact exec_usr_mode hu h

/-- Settles O15: Reset is at its vector, and any other step stays in User mode or is at a vector. -/
theorem userModeLeftByException : Obligations.UserModeLeftByException := by
  intro s t hm h hne
  cases hr : s.popInputs.1.reset with
  | true =>
    rw [step_of_reset hr] at h
    cases h
    exact State.resetEntry_atVector _
  | false =>
    rw [step_of_running hr] at h
    have hmode := (congrArg psrMode s.drained_seenAs.cpsr).trans hm
    exact (stepRunning_usr_mode hmode h).resolve_left hne

end

end Sys2Proof.Machine
end

section
/-! SUPPORT. Coprocessor 15 in the privileged modes: what an MRC delivers, what an MCR writes, and what the flush and purge
operations empty; the statements O50, O51, O52. -/

namespace Sys2Proof.Machine

section
variable {s t u : State} {md : Mode} {c : Cond} {rd : RegNo} {i : Instr} {v : Word}

/-! ## MRC (rules R399, R401, R408, R409, R410) -/

/-- `s` has put `v` into `R[rd]` of mode `md`, or its top four bits into the flags if `rd` is R15, changed nothing else, and gone
on to `t` (rule R399). -/
structure State.Delivered (s t : State) (md : Mode) (rd : RegNo) (v : Word) : Prop where
  target :
    if rd = 15#4 then s.KeepsRegs t ∧ t.cpsr = withFlagBits s.cpsr (v.extractLsb' 28 4)
    else s.KeepsRegsBut t md rd ∧ t.Holds md rd v ∧ t.cpsr = s.cpsr
  special : s.KeepsSpecial t
  memory : s.KeepsMemory t
  wentOn : s.WentOn t

theorem deliverCp15_advance_delivered (s : State) (md : Mode) (rd : RegNo) (v : Word) :
    s.Delivered (deliverCp15 s md rd v).advance md rd v := by
  unfold deliverCp15
  split
  next hrd =>
    obtain ⟨regs, cpsr, special, memory, wentOn⟩ :=
      (s.setCpsr (withFlagBits s.cpsr (v.extractLsb' 28 4))).advance_keeps
    obtain ⟨spsrs, cp15⟩ := special
    exact ⟨by rw [if_pos hrd]; exact ⟨regs, cpsr⟩, ⟨fun m => (spsrs m).trans (s.spsr_setCpsr _ m), cp15⟩, memory, wentOn⟩
  next hrd =>
    obtain ⟨keeps, holds, cpsr, special, memory, wentOn⟩ := s.write_advance_keeps md rd v
    exact ⟨by rw [if_neg hrd]; exact ⟨keeps, holds, cpsr⟩, special, memory, wentOn⟩

theorem State.SeenAs.delivered (h : s.SeenAs u) (d : u.Delivered t md rd v) : s.Delivered t md rd v where
  target := by
    have target := d.target
    rwa [State.KeepsRegs, State.KeepsRegsBut, h.preg, h.cpsr] at target
  special := by
    obtain ⟨spsrs, cp15⟩ := d.special
    exact ⟨h.spsr ▸ spsrs, cp15.trans h.cp15⟩
  memory a := (d.memory a).trans (h.sys.phys a)
  wentOn := by
    obtain ⟨pc, hazard⟩ := d.wentOn
    exact ⟨h.pc ▸ pc, hazard⟩

/-- A read of coprocessor 15 draws a free value at most. -/
theorem Cp15Source.read_seenAs (src : Cp15Source) (s : State) : s.SeenAs (src.read s).2 := by
  cases src with
  | id | far => exact .refl s
  | fsr | invalid => exact (State.SeenAs.refl s).withSys s.sys.draw_reads

theorem readId_value (s : State) : (readId s).1.extractLsb' 4 28 = 0x4104710#28 := BitVec.extractLsb'_append_eq_left

/-- Bits [11:0] of the FSR are what the spec fixes of it (rule R55). -/
theorem readFsr_value (s : State) :
    (readFsr s).1.extractLsb' 0 12 = (0#4 ++ s.cp15.fsrDomain ++ s.cp15.fsrStatus : BitVec 12) := by
  refine BitVec.eq_of_getLsbD_eq fun i hi => ?_
  have htop : i - 4 - 4 < 4 := by omega
  simp only [readFsr, BitVec.getLsbD_extractLsb', BitVec.getLsbD_append, hi, htop, decide_true, Bool.true_and,
    Nat.zero_add, if_true]

/-- With its unnamed fields zero, an MRC in a privileged mode delivers what its register reads as. -/
theorem exec_cp15Read {src : Cp15Source} (hs : s.Executes md c) (hmd : md ≠ .usr)
    (hv : viewOf i = .cp15Read c true rd src) :
    exec i s = .next (deliverCp15 (src.read s).2 md rd (src.read s).1).advance := by
  rw [exec_eq_meaning, hv, View.meaning, hs.run, Mode.privileged_of_ne hmd]
  rfl

/-- Settles O50: the value that the source reads, delivered from a state in which nothing is seen changed. -/
theorem cp15Reads : Obligations.Cp15Reads := by
  intro i c rd src s md hv hs hmd
  have delivered := (src.read_seenAs s).delivered (deliverCp15_advance_delivered _ md rd (src.read s).1)
  refine ⟨_, (src.read s).1, exec_cp15Read hs hmd hv, ?value, delivered.target, delivered.special, delivered.memory,
    delivered.wentOn⟩
  cases src with
  | id => exact readId_value s
  | fsr => exact readFsr_value s
  | far => rfl
  | invalid => trivial

/-! ## MCR (rules R400, R402 to R407, R410) -/

/-- What an MCR that is answered leaves in the registers of coprocessor 15. -/
def Cp15Target.updateCp15 (tgt : Cp15Target) (v : Word) (cp : Cp15) : Cp15 :=
  match tgt with
  | .control => { cp with control := v }
  | .ttb => { cp with ttb := v }
  | .dac => { cp with dac := v }
  | .flushTlb | .purgeTlb | .flushIdc | .invalid => cp

/-- What an MCR that is answered leaves in the memory system. -/
def Cp15Target.updateSys (tgt : Cp15Target) (v : Word) (m : MemSys) : MemSys :=
  match tgt with
  | .flushTlb => m.tlbFlush
  | .purgeTlb => m.tlbPurge v
  | .flushIdc => m.cacheFlush
  | .control | .ttb | .dac | .invalid => m

/-- The state before an answered MCR goes on. -/
def Cp15Target.update (tgt : Cp15Target) (v : Word) (s : State) : State :=
  { s with cp15 := tgt.updateCp15 v s.cp15, sys := tgt.updateSys v s.sys }

/-- The values for which an MCR is answered (rules R177, R397). -/
def Cp15Target.Accepts (tgt : Cp15Target) (v : Word) : Prop :=
  (tgt = .control → v.extractLsb' 11 21 = 0#21 ∧ ((v.getLsbD 2 || v.getLsbD 3) = true → v.getLsbD 0 = true)) ∧
    (tgt = .ttb → v.extractLsb' 0 14 = 0#14) ∧ (tgt = .purgeTlb → v.extractLsb' 0 12 = 0#12)

theorem Cp15Target.write_of_accepts {tgt : Cp15Target} (h : tgt.Accepts v) (s : State) :
    tgt.write v s = .next (tgt.update v s).advance := by
  obtain ⟨hcontrol, httb, hpurge⟩ := h
  cases tgt with
  | control =>
    obtain ⟨hzero, hmmu⟩ := hcontrol rfl
    have hon : ¬ ((v.getLsbD 2 || v.getLsbD 3) && !v.getLsbD 0) = true := by
      rw [Bool.and_eq_true_iff]
      rintro ⟨hcache, hoff⟩
      rw [hmmu hcache] at hoff
      cases hoff
    exact (if_neg (not_not.2 hzero)).trans (if_neg hon)
  | ttb => exact if_neg (not_not.2 (httb rfl))
  | purgeTlb => exact if_neg (not_not.2 (hpurge rfl))
  | dac | flushTlb | flushIdc | invalid => rfl

/-- An MCR that is answered was accepted. -/
theorem Cp15Target.accepts_of_write {tgt : Cp15Target} (h : tgt.write v s = .next t) : tgt.Accepts v := by
  refine ⟨?control, ?ttb, ?purge⟩
  case control =>
    rintro rfl
    have hzero : v.extractLsb' 11 21 = 0#21 := by
      by_contra hne
      rw [Cp15Target.write, writeControl_reserved hne] at h
      cases h
    refine ⟨hzero, fun hon => ?_⟩
    by_contra hoff
    rw [Cp15Target.write, writeControl_withoutMmu hzero hon (Bool.eq_false_iff.2 hoff)] at h
    cases h
  case ttb =>
    rintro rfl
    by_contra hne
    rw [Cp15Target.write, writeTtb_reserved hne] at h
    cases h
  case purge =>
    rintro rfl
    by_contra hne
    rw [Cp15Target.write, purgeTlb_reserved hne] at h
    cases h

theorem Cp15Target.write_next {tgt : Cp15Target} (h : tgt.write v s = .next t) : t = (tgt.update v s).advance := by
  rw [Cp15Target.write_of_accepts (Cp15Target.accepts_of_write h)] at h
  cases h
  rfl

theorem Cp15Target.updateSys_reads (tgt : Cp15Target) (v : Word) (m : MemSys) : m.Reads (tgt.updateSys v m) := by
  cases tgt with
  | flushTlb => exact m.tlbFlush_reads
  | purgeTlb => exact m.tlbPurge_reads v
  | flushIdc => exact m.cacheFlush_reads
  | control | ttb | dac | invalid => exact .refl m

theorem Cp15Target.update_spsr (tgt : Cp15Target) (v : Word) (s : State) (m : Mode) :
    (tgt.update v s).spsr m = s.spsr m := by
  cases m with
  | usr | fiq | irq | svc | abt | und => rfl

/-- An MCR writes the register that it names and no other. -/
theorem Cp15Target.updateCp15_fields (tgt : Cp15Target) (v : Word) (cp : Cp15) :
    (tgt.updateCp15 v cp).control = (if tgt = .control then v else cp.control) ∧
      (tgt.updateCp15 v cp).ttb = (if tgt = .ttb then v else cp.ttb) ∧
      (tgt.updateCp15 v cp).dac = (if tgt = .dac then v else cp.dac) ∧
      (tgt.updateCp15 v cp).fsrStatus = cp.fsrStatus ∧ (tgt.updateCp15 v cp).fsrDomain = cp.fsrDomain ∧
      (tgt.updateCp15 v cp).far = cp.far := by
  cases tgt with
  | control | ttb | dac | flushTlb | purgeTlb | flushIdc | invalid => exact ⟨rfl, rfl, rfl, rfl, rfl, rfl⟩

/-- Settles O51: the value is accepted, the register is written, and the instruction goes on. -/
theorem cp15Writes : Obligations.Cp15Writes := by
  intro i c rd tgt s md v hv hs hmd hval hcontrol httb hpurge
  obtain rfl : v = s.read md rd 12#32 := by
    rw [hval, ite_eq_right_iff]
    rintro rfl
    rfl
  have hexec := (exec_cp15Write hs hmd hv).trans (tgt.write_of_accepts ⟨hcontrol, httb, hpurge⟩ s)
  obtain ⟨regs, cpsr, ⟨spsrs, cp15⟩, memory, wentOn⟩ := (tgt.update (s.read md rd 12#32) s).advance_keeps
  obtain ⟨control, ttb, dac, status, domain, far⟩ := tgt.updateCp15_fields (s.read md rd 12#32) s.cp15
  refine ⟨_, hexec, ?_⟩
  rw [cp15]
  exact ⟨control, ttb, dac, status, domain, far, regs, cpsr, fun m => (spsrs m).trans (tgt.update_spsr _ s m),
    fun a => (memory a).trans ((tgt.updateSys_reads _ s.sys).phys a), wentOn⟩

/-! ## Flush and purge (rules R405, R406, R407) -/

/-- The number of the 64 kB around an address, from that of the 4 kB around it. -/
theorem largePage_of_smallPage (va : Word) : (va.extractLsb' 12 20).extractLsb' 4 16 = va.extractLsb' 16 16 := by
  ext j hj
  simp only [BitVec.getElem_extractLsb', BitVec.getLsbD_extractLsb', show 4 + j < 20 by omega, decide_true,
    Bool.true_and, ← Nat.add_assoc, Nat.reduceAdd]

/-- What covers an address has the address in its page: a descriptor serves a part of its page, or all of it (rule R111). -/
theorem Mapping.inPage_of_covers {e : Mapping} {va : Word} (h : e.covers va = true) : e.inPage va = true := by
  cases e with
  | sectionMap vtag base ap => exact h
  | small vtag base aps => exact h
  | large vtag base aps =>
    obtain rfl := beq_iff_eq.1 h
    exact beq_iff_eq.2 (largePage_of_smallPage va)

theorem MemSys.tlbMatches_congr {m m' : MemSys} (h : m'.tlb = m.tlb) (va : Word) :
    m'.tlbMatches va = m.tlbMatches va := by
  rw [MemSys.tlbMatches, h, MemSys.tlbMatches]

theorem MemSys.covers_of_mem_tlbMatches {m : MemSys} {va : Word} {e : TlbEntry} (h : e ∈ m.tlbMatches va) :
    e.map.covers va = true := by
  obtain ⟨o, -, ho⟩ := List.mem_filterMap.1 h
  exact (Option.filter_eq_some_iff.1 ho).2

/-- A purge of `a` takes from the entries that cover an address those with `a` in their page. -/
theorem MemSys.tlbMatches_tlbPurge (m : MemSys) (a va : Word) :
    (m.tlbPurge a).tlbMatches va = (m.tlbMatches va).filter fun e => !e.map.inPage a := by
  simp only [MemSys.tlbMatches, MemSys.tlbPurge, Vector.toList_map, List.filterMap_map, List.filter_filterMap,
    Function.comp_def, Option.filter_filter, Bool.and_comm]

theorem MemSys.tlbMatches_tlbPurge_self (m : MemSys) (a : Word) : (m.tlbPurge a).tlbMatches a = [] := by
  rw [MemSys.tlbMatches_tlbPurge, List.filter_eq_nil_iff]
  intro e he
  simp [Mapping.inPage_of_covers (MemSys.covers_of_mem_tlbMatches he)]

theorem Cp15Target.updateSys_tlb {tgt : Cp15Target} (hf : tgt ≠ .flushTlb) (hp : tgt ≠ .purgeTlb) (v : Word)
    (m : MemSys) : (tgt.updateSys v m).tlb = m.tlb := by
  cases tgt with
  | flushTlb => exact absurd rfl hf
  | purgeTlb => exact absurd rfl hp
  | control | ttb | dac | flushIdc | invalid => rfl

theorem Cp15Target.updateSys_cache {tgt : Cp15Target} (h : tgt ≠ .flushIdc) (v : Word) (m : MemSys) :
    (tgt.updateSys v m).cache = m.cache := by
  cases tgt with
  | flushIdc => exact absurd rfl h
  | control | ttb | dac | flushTlb | purgeTlb | invalid => rfl

/-- Settles O52: going on keeps TLB and cache as the operation leaves them. -/
theorem flushAndPurge : Obligations.FlushAndPurge := by
  intro i c rd tgt s t md hv hs hmd h
  rw [exec_cp15Write hs hmd hv] at h
  obtain rfl := Cp15Target.write_next h
  have htlb := (tgt.update (s.read md rd 12#32) s).advance_sys_tlb
  have hcache := (tgt.update (s.read md rd 12#32) s).advance_sys_cache
  refine ⟨?flush, ?purge, ?idc, fun hf hp => htlb.trans (Cp15Target.updateSys_tlb hf hp _ _),
    fun hi => hcache.trans (Cp15Target.updateSys_cache hi _ _)⟩
  case flush =>
    rintro rfl
    exact MemSys.tlbMatches_of_empty htlb
  case purge =>
    rintro rfl
    have hmatches := MemSys.tlbMatches_congr htlb
    exact ⟨(hmatches _).trans (s.sys.tlbMatches_tlbPurge_self _),
      fun va => (hmatches va).trans (s.sys.tlbMatches_tlbPurge _ va)⟩
  case idc =>
    rintro rfl
    exact MemSys.cachedWord_of_empty hcache

end

end Sys2Proof.Machine
end
